-- ==== Sys2Proof/Word.lean ====
section
/-!
DEFINITION. The bit-vector types of the block: register words, the bytes a host may view them as, window offsets,
command codes and the two bit buffers (spec rules R7, R8, R61).
-/

namespace Sys2Proof

/-- A register word: every register of the block is 32 bits wide (R7, R23). -/
abbrev Word := BitVec 32

/-- A byte of a register word, as a host may view it (R44). -/
abbrev Byte := BitVec 8

/-- A byte offset in the 1 KiB register window, 0x000 to 0x3FF (R40, R61). -/
abbrev Offset := BitVec 10

/-- A 4-bit command code: CTRL.CMD (R23) and the hidden register PEND (R30). -/
abbrev Code := BitVec 4

/-- The 64 words (2048 bit slots) of the PAYLOAD or the CODEWORD window (R7). How many of the slots exist depends on
M_MAX. A slot that does not exist is never read as a bit of the block and never written. -/
abbrev Buffer := BitVec 2048

end Sys2Proof
end

