-- ==== Sys2Proof/Syntax.lean ====
section
/-!
DEFINITION. The block's instructions: the commands a host writes to CTRL, one constructor for each row of
spec/opcode_table.json (spec rules R60, R63).
-/

namespace Sys2Proof

/-- The command map of R63. The two reserved rows keep the code that was written, CTRL[3:0]; `Instr.wellFormed` says
which codes belong to which row. No command carries any other operand (R62). -/
inductive Instr where
  /-- CMD = 0x0, NOP (R113). -/
  | nop
  /-- CMD = 0x1, PLAN (R84). -/
  | plan
  /-- CMD = 0x2, ENCODE (R101). -/
  | encode
  /-- CMD = 0x3, CLEAR (R114). -/
  | clear
  /-- CMD = 0x4 to 0x7, reserved (R64, R115): table row RESERVED_4_7. -/
  | reserved47 (code : Code)
  /-- CMD = 0x8 to 0xF, reserved (R64, R115): table row RESERVED_8_F. -/
  | reserved8F (code : Code)
  deriving DecidableEq, Repr

/-- The mnemonic of the instruction's row in spec/opcode_table.json. -/
def Instr.mnemonic : Instr → String
  | .nop => "NOP"
  | .plan => "PLAN"
  | .encode => "ENCODE"
  | .clear => "CLEAR"
  | .reserved47 _ => "RESERVED_4_7"
  | .reserved8F _ => "RESERVED_8_F"

end Sys2Proof
end

