-- ==== Sys2Proof/WellFormed.lean ====
section
/-!
DEFINITION. Which instructions are well formed: a reserved command's code lies in the range its opcode row names
(spec rules R63, R64).
-/

namespace Sys2Proof

/-- A reserved instruction holds a code of its own row: 0x4 to 0x7, or 0x8 to 0xF (R63). The other commands have no
operand, so nothing can be wrong with them (R62). -/
def Instr.wellFormed : Instr → Bool
  | .nop => true
  | .plan => true
  | .encode => true
  | .clear => true
  | .reserved47 code => 4 ≤ code.toNat && code.toNat ≤ 7
  | .reserved8F code => 8 ≤ code.toNat

end Sys2Proof
end

