-- ==== Sys2Proof/Decode.lean ====
section
/-!
DEFINITION. Decoding of command words and their encoder, both written from the command map of spec rule R63, and the
byte view of a register word (R44). Decoding a word is total: every 32-bit word is a command word. Decoding bytes
rejects, by name, only a list too short to hold a word.
-/

namespace Sys2Proof

/-- CMD, bits 3:0 of a command word (R23, R60). Bits 31:4 are ignored. -/
def cmdField (w : Word) : Code := w.extractLsb' 0 4

/-- `decodeCmd` of R63: CMD selects the command, and nothing else of the word is looked at. -/
def decodeCmd (w : Word) : Instr :=
  if cmdField w = 0x0#4 then .nop
  else if cmdField w = 0x1#4 then .plan
  else if cmdField w = 0x2#4 then .encode
  else if cmdField w = 0x3#4 then .clear
  else if cmdField w &&& 0xC#4 = 0x4#4 then .reserved47 (cmdField w)
  else .reserved8F (cmdField w)

/-- The instruction whose code is `c`, as the ENGINE reads it from PEND (R110): the command word of that code. -/
def decodeCode (c : Code) : Instr := decodeCmd (c.setWidth 32)

/-- Why a byte list holds no command word. -/
inductive DecodeError where
  /-- Fewer than the four bytes of a 32-bit word; `bytes` of them are there (R67: every command is one 32-bit word). -/
  | truncated (bytes : Nat)
  deriving DecidableEq, Repr

/-- The four bytes of a register word, byte k holding bits [8k+7:8k] (R44). -/
def bytesOfWord (w : Word) : List Byte :=
  [w.extractLsb' 0 8, w.extractLsb' 8 8, w.extractLsb' 16 8, w.extractLsb' 24 8]

/-- The register word whose byte k (little-endian byte lanes, R44) is `bk`. -/
def wordOfBytes (b0 b1 b2 b3 : Byte) : Word := b3 ++ b2 ++ b1 ++ b0

/-- Decode the command word at the front of a byte list; the bytes after it are given back. -/
def decode : List Byte → Except DecodeError (Instr × List Byte)
  | b0 :: b1 :: b2 :: b3 :: rest => .ok (decodeCmd (wordOfBytes b0 b1 b2 b3), rest)
  | bytes => .error (.truncated bytes.length)

/-- The code of an instruction, CTRL.CMD (R63). -/
def Instr.code : Instr → Code
  | .nop => 0x0#4
  | .plan => 0x1#4
  | .encode => 0x2#4
  | .clear => 0x3#4
  | .reserved47 code => code
  | .reserved8F code => code

/-- The command word of a well-formed instruction, its ignored bits 31:4 written as 0 as R60 asks of software. -/
def encode (i : Instr) : Word := i.code.setWidth 32

/-- The command word's four bytes (R44). -/
def encodeBytes (i : Instr) : List Byte := bytesOfWord (encode i)

/-- The instruction the decoder reads from a table row's word: `w`, its bits from `nbits` up taken as 0, as the one
32-bit word of a command. -/
def decodeTableWord (nbits w : Nat) : Option Instr :=
  match decode (bytesOfWord (BitVec.ofNat 32 (w % 2 ^ nbits))) with
  | .ok (i, _) => some i
  | .error _ => none

/-- A row of the command map of R63: mnemonic, match and mask. -/
structure OpcodeRow where
  mnemonic : String
  pattern : Word
  mask : Word
  deriving DecidableEq, Repr

/-- The word belongs to the row. -/
def OpcodeRow.hits (r : OpcodeRow) (w : Word) : Bool := w &&& r.mask == r.pattern

/-- The command map of R63 in match and mask form, as spec/opcode_table.json has it. -/
def opcodeTable : List OpcodeRow :=
  [⟨"NOP", 0x00000000, 0x0000000F⟩, ⟨"PLAN", 0x00000001, 0x0000000F⟩, ⟨"ENCODE", 0x00000002, 0x0000000F⟩,
   ⟨"CLEAR", 0x00000003, 0x0000000F⟩, ⟨"RESERVED_4_7", 0x00000004, 0x0000000C⟩,
   ⟨"RESERVED_8_F", 0x00000008, 0x00000008⟩]

end Sys2Proof
end

