-- ==== Sys2Proof/Config.lean ====
section
/-!
DEFINITION. What an implementation of the block fixes, and the values the spec leaves open: the bound and the
reference value of M_MAX, the version, the window's base address and the unspecified read data `draw32()`
(spec rules R2, R5, R7, R11).
-/

namespace Sys2Proof.Config

/-- The largest value the parameter M_MAX may take (R5). M_MAX itself is the field `State.mMax`, so that every claim
about all states is a claim about every M_MAX the spec allows (log entry 1). -/
abbrev mMaxBound : Nat := 2036

/-- The reference value of M_MAX (R5), the one at which `State.reset` is configured (log entry 1). -/
def mMaxRef : Fin (mMaxBound + 1) := ⟨2036, by decide⟩

/-- The block's version, reported by ID[31:28] (R2, R27). -/
def version : Nat := 1

/-- Which 1 KiB page of the host's address space holds the register window. OPEN in the spec: a platform parameter,
with no body, so that no claim can rest on its value (R7, R40; log entry 2). -/
opaque basePage : Nat

/-- The base address BASE of the window. It is 1 KiB aligned (R7, R40). -/
def base : Nat := 1024 * basePage

/-- `draw32()`, the unspecified 32-bit value of R11: a free value with no body. The n-th draw of a run is
`draw32 n`, so two draws of one run need not be equal (log entry 3). -/
opaque draw32 : Nat → Word

end Sys2Proof.Config
end

