-- ==== Sys2Proof/Machine/Transaction.lean ====
section
/-!
DEFINITION. What the agents outside the block offer it: host transactions, the lines of a host program, the responses
a host observes and the turns of a schedule (spec rules R11, R20, R61, R68, R118, R119).
-/

namespace Sys2Proof.Machine

/-- A host transaction, the unit of a host program (R61). `size` is in bytes; only 4 is defined (R42). A read has no
write data. -/
inductive Transaction where
  /-- `RD`: dir = 0 (R61). -/
  | read (off : Offset) (size : Nat)
  /-- `WR`: dir = 1 (R61). -/
  | write (off : Offset) (size : Nat) (wdata : Word)
  deriving DecidableEq, Repr

/-- One line of a host program (R68): a transaction, or the host's only loop, `POLL`. -/
inductive Line where
  /-- One transaction. -/
  | access (t : Transaction)
  /-- `POLL`: read the register at `off` again until data & mask = val (R68, R122). -/
  | poll (off : Offset) (mask val : Word)
  deriving DecidableEq, Repr

/-- What a completed transaction gives its host: read data, or the acknowledgement of a write (R61). A bus error is
the fault `Fault.busError`. -/
inductive Response where
  /-- A read's 32-bit data. -/
  | data (v : Word)
  /-- A write's acknowledgement. -/
  | ack
  deriving DecidableEq, Repr

/-- Which event of the total order comes next (R48, R118). -/
inductive Turn where
  /-- Host number `k` offers its next transaction. -/
  | host (k : Nat)
  /-- The ENGINE, which steps if BUSY = 1 (R110). -/
  | engine
  /-- The block's reset input (R160). -/
  | reset
  deriving DecidableEq, Repr

end Sys2Proof.Machine
end

