-- ==== Sys2Proof/Machine/State.lean ====
section
/-!
DEFINITION. The machine's state: the block's complete state (spec rule R20), its parameter M_MAX (R5), and the plain
data of the world around it: the host programs, the schedule, what the hosts observed, and the counter of free values.
-/

namespace Sys2Proof.Machine

/-- Why a run stops with a fault. -/
inductive Fault where
  /-- A host transaction whose size is not 4, or whose offset is not a multiple of 4 (R42, R141). Raised by the host's
  turn that offers it. It carries the transaction, which is known to the host's bus, and for a read the unspecified
  data that comes with the error. The spec itself asks a model to fault here. Safe: the run stops, nothing can be
  proved of what follows. -/
  | busError (t : Transaction) (data : Option Word)
  /-- The ENGINE's turn found BUSY = 1 with PEND = 0, which cannot occur (R30, R110). Raised only in states no run
  reaches. Safe: the run stops. -/
  | engineWithoutCommand
  deriving DecidableEq, Repr

/-- Why an instruction is refused. -/
inductive Refusal where
  /-- The instruction has no meaning yet. No arm of `exec` answers it. Safe. -/
  | notModelled (mnemonic : String)
  deriving DecidableEq, Repr

/-- The state. The fields from `len` to `pend` are the block's complete state, the record of R20. `mMax` is the
block's parameter and never changes. `hosts`, `turns`, `seen` and `draws` are the model's own. -/
@[ext]
structure State where
  /-- LEN, the payload length m (R25). -/
  len : BitVec 12
  /-- PAYLOAD: slot p is payload bit p, for p < M_MAX (R28). -/
  pay : Buffer
  /-- CODEWORD: slot b is codeword position b + 1, for b < N_MAX (R29). -/
  cw : Buffer
  /-- RESULT.N (R26). -/
  resN : BitVec 12
  /-- RESULT.R (R26). -/
  resR : BitVec 4
  /-- STATUS.BUSY (R24). -/
  busy : Bool
  /-- STATUS.DONE (R24). -/
  done : Bool
  /-- STATUS.OVR (R24). -/
  ovr : Bool
  /-- STATUS.ERR (R24). -/
  err : BitVec 4
  /-- PEND, the hidden code of the pending command (R30). -/
  pend : Code
  /-- The parameter M_MAX (R5): configuration, not state of the block; no step changes it (log entry 1). -/
  mMax : Fin (Config.mMaxBound + 1)
  /-- What is left of each host's program, its next line first (R22, R119). Not state of the block (log entry 5). -/
  hosts : List (List Line)
  /-- The schedule still to come: which event is next in the total order (R48, R118; log entry 4). -/
  turns : List Turn
  /-- What the hosts observed, the latest first, each with the number of its host (92_eei_decisions.md D32; log entry
  6). -/
  seen : List (Nat × Response)
  /-- How many free values `draw32()` have been drawn (R11; log entry 3). -/
  draws : Nat
  deriving DecidableEq, Repr

/-- The machine right after reset, for a block of capacity `m`: R33 for the block, and nothing offered to it. -/
def State.resetAt (m : Fin (Config.mMaxBound + 1)) : State where
  len := 0#12
  pay := 0#2048
  cw := 0#2048
  resN := 0#12
  resR := 0#4
  busy := false
  done := false
  ovr := false
  err := 0#4
  pend := 0#4
  mMax := m
  hosts := []
  turns := []
  seen := []
  draws := 0

/-- The machine right after reset (R33, R160), at the reference value of M_MAX (R5; log entry 1). -/
def State.reset : State := State.resetAt Config.mMaxRef

end Sys2Proof.Machine
end

