-- ==== Sys2Proof/Machine/Planner.lean ====
section
/-!
DEFINITION. The parity planner: the parity count of a payload length, and the derived capacities of the block
(spec rules R6, R80, R83).
-/

namespace Sys2Proof.Machine

/-- Search upward from `r`, at most `fuel` candidates, for the first r with 2^r ≥ m + r + 1 (R80). -/
def planFrom (m : Nat) : (fuel r : Nat) → Nat
  | 0, r => r
  | fuel + 1, r => if m + r + 1 ≤ 2 ^ r then r else planFrom m fuel (r + 1)

/-- `plan m`, the least r with 2^r ≥ m + r + 1 (R80). R80 shows that r = m + 1 meets the condition, so a search through
0 to m finds the least one or ends at m + 1. The source's tighter bound is not followed (90_conflicts.md C1). -/
def plan (m : Nat) : Nat := planFrom m (m + 1) 0

/-- The codeword length n = m + r (R90, R91). -/
def codewordLength (m : Nat) : Nat := m + plan m

/-- R_MAX (R6). -/
def State.rMax (s : State) : Nat := plan s.mMax.val

/-- N_MAX (R6). -/
def State.nMax (s : State) : Nat := s.mMax.val + s.rMax

end Sys2Proof.Machine
end

