-- ==== Sys2Proof/Machine/Encoder.lean ====
section
/-!
DEFINITION. The encoding function: the layout of a payload as a Hamming codeword (spec rules R10, R90 to R94, R96).
A codeword is a list whose element number t - 1 is position t; `t` and `i` below are always 1-based positions.
-/

namespace Sys2Proof.Machine

/-- The power-of-two test of R10, i & (i-1) = 0. It is applied to positions i ≥ 1 only. -/
def isPow2 (i : Nat) : Bool := i &&& (i - 1) == 0

/-- Step 3 of R90: walk `count` positions from position `i` upward. A parity position keeps the placeholder 0. A data
position takes the next bit of `p`, which is what the payload cursor still has to place. R92: for `count` = n and
`i` = 1 the walk uses up the payload exactly, so the default of `headD` is never read. -/
def placeData : (count i : Nat) → (p : List Bool) → List Bool
  | 0, _, _ => []
  | count + 1, i, p =>
    if isPow2 i then false :: placeData count (i + 1) p
    else p.headD false :: placeData count (i + 1) p.tail

/-- The XOR of the bits at the positions t with (t & 2^k) ≠ 0, `c` being the bits from position `t` on (R93). -/
def coverageXor (k : Nat) : (t : Nat) → (c : List Bool) → Bool
  | _, [] => false
  | t, b :: c => ((t &&& 2 ^ k != 0) && b) ^^ coverageXor k (t + 1) c

/-- One turn of step 4 of R90: c[2^k] receives the XOR of its coverage set, itself included (R93). -/
def setParity (c : List Bool) (k : Nat) : List Bool := c.set (2 ^ k - 1) (coverageXor k 1 c)

/-- `encode(p)` of R90: place the data in n = m + plan(m) positions, then compute the parity bits for k = 0 to r - 1 in
increasing order. -/
def hammingEncode (p : List Bool) : List Bool :=
  (List.range (plan p.length)).foldl setParity (placeData (codewordLength p.length) 1 p)

/-- The bits at the data positions of a codeword in increasing order, `c` being its bits from position `i` on. -/
def extractFrom : (i : Nat) → (c : List Bool) → List Bool
  | _, [] => []
  | i, b :: c => if isPow2 i then extractFrom (i + 1) c else b :: extractFrom (i + 1) c

/-- `extractData(c)` of R96. -/
def extractData (c : List Bool) : List Bool := extractFrom 1 c

end Sys2Proof.Machine
end

