-- ==== Sys2Proof/Machine/Operands.lean ====
section
/-!
DEFINITION. The operand forms: the register map (spec rule R41), the value a register shows (R23 to R29), the bits a
command reads (R62) and the bits a buffer write or an ENCODE stores (R28, R29, R101).
-/

namespace Sys2Proof.Machine

/-- The address in the host's address space at which the block's register at `off` stands: BASE + off (R40). -/
def windowAddress (off : Offset) : Nat := Config.base + off.toNat

/-- The offset a host address reaches, if it lies in the window (R40). The spec says nothing of the rest of the host's
address space (R46). -/
def windowOffset (a : Nat) : Option Offset :=
  if Config.base ≤ a ∧ a < Config.base + 1024 then some (BitVec.ofNat 10 (a - Config.base)) else none

/-- What stands at an offset of the window (R41). -/
inductive Target where
  | ctrl
  | status
  | len
  | result
  | id
  /-- PAYLOAD[w], w = 0..63. -/
  | payload (w : Nat)
  /-- CODEWORD[w], w = 0..63. -/
  | codeword (w : Nat)
  /-- No register (R43). -/
  | unmapped
  deriving DecidableEq, Repr

/-- The register map of R41, for offsets that are multiples of 4. -/
def targetOf (off : Offset) : Target :=
  let a := off.toNat
  if a = 0x000 then .ctrl
  else if a = 0x004 then .status
  else if a = 0x008 then .len
  else if a = 0x00C then .result
  else if a = 0x010 then .id
  else if 0x100 ≤ a ∧ a < 0x200 then .payload ((a - 0x100) / 4)
  else if 0x200 ≤ a ∧ a < 0x300 then .codeword ((a - 0x200) / 4)
  else .unmapped

/-- The access is a defined one: 32 bits, at a multiple of 4 (R42). -/
def accessDefined (off : Offset) (size : Nat) : Bool := size == 4 && off.toNat % 4 == 0

/-- A mask of the slots with an index below `k`. -/
def slotsBelow (k : Nat) : Buffer := BitVec.ofNat 2048 (2 ^ k - 1)

/-- The slots of word `w` of a buffer that lie below `k`, with the bits of `v` in them: bit b of the word at slot
32w + b (R28, R29). -/
def wordSlots (k w : Nat) (v : Word) : Buffer := (v.setWidth 2048 <<< (32 * w)) &&& slotsBelow k

/-- The value of word `w` of a buffer of which `k` slots exist: a slot that does not exist reads 0 (R28, R29). -/
def bufferWord (k w : Nat) (buf : Buffer) : Word := ((buf &&& slotsBelow k) >>> (32 * w)).setWidth 32

/-- The buffer after word `w` is written with `v`: slot 32w + b receives v[b] for every b with 32w + b < k; no other
slot changes (R28). -/
def setBufferWord (k w : Nat) (v : Word) (buf : Buffer) : Buffer :=
  (buf &&& ~~~ wordSlots k w (BitVec.allOnes 32)) ||| wordSlots k w v

/-- The value of STATUS (R24). -/
def statusWord (s : State) : Word :=
  (s.err.setWidth 32 <<< 4) ||| ((BitVec.ofBool s.ovr).setWidth 32 <<< 2)
    ||| ((BitVec.ofBool s.done).setWidth 32 <<< 1) ||| (BitVec.ofBool s.busy).setWidth 32

/-- The value of LEN (R25). -/
def lenWord (s : State) : Word := s.len.setWidth 32

/-- The value of RESULT when BUSY = 0 (R26). -/
def resultWord (s : State) : Word := (s.resR.setWidth 32 <<< 16) ||| s.resN.setWidth 32

/-- The value of ID: VERSION, N_MAX, R_MAX and M_MAX (R27). -/
def idWord (s : State) : Word :=
  (BitVec.ofNat 32 Config.version <<< 28) ||| (BitVec.ofNat 32 s.nMax <<< 16)
    ||| (BitVec.ofNat 32 s.rMax <<< 12) ||| BitVec.ofNat 32 s.mMax.val

/-- The value a register shows when its read is no draw (R116). -/
def targetWord (s : State) : Target → Word
  | .ctrl => 0
  | .status => statusWord s
  | .len => lenWord s
  | .result => resultWord s
  | .id => idWord s
  | .payload w => bufferWord s.mMax.val w s.pay
  | .codeword w => bufferWord s.nMax w s.cw
  | .unmapped => 0

/-- A read of this register while BUSY = 1 returns `draw32()`: RESULT and the CODEWORD words (R26, R29). -/
def Target.isResult : Target → Bool
  | .result => true
  | .codeword _ => true
  | _ => false

/-- The operand of ENCODE: pay[0..m-1] as a bit sequence (R62, R101). -/
def payloadBits (s : State) : List Bool := (List.range s.len.toNat).map s.pay.getLsbD

/-- The buffer that holds the codeword `c`: slot b is position b + 1, and every slot from n on is 0 (R101). -/
def codewordBuffer (c : List Bool) : Buffer := (BitVec.ofBoolListLE c).setWidth 2048

end Sys2Proof.Machine
end

