-- ==== Sys2Proof/Machine/Flags.lean ====
section
/-!
DEFINITION. The STATUS flags: who writes them and how (spec rules R24, R32), with the error codes (R140). Each function
is one row of R32's table of writers.
-/

namespace Sys2Proof.Machine

/-- STATUS.ERR of a command that succeeded (R24). -/
def errOk : BitVec 4 := 0#4

/-- PLAN_ERR: LEN > M_MAX at the ENGINE step of PLAN or ENCODE (R142). -/
def errPlan : BitVec 4 := 1#4

/-- CMD_ERR: a reserved command (R143). -/
def errCmd : BitVec 4 := 2#4

/-- Acceptance of a command (R111): PEND, BUSY, DONE and ERR change, nothing else. -/
def State.accept (c : Code) (s : State) : State := { s with pend := c, busy := true, done := false, err := 0#4 }

/-- A write is dropped because BUSY = 1: OVR is set, nothing else changes (R112). -/
def State.dropWrite (s : State) : State := { s with ovr := true }

/-- The end of every ENGINE step (R110), with the command's result code. -/
def State.complete (e : BitVec 4) (s : State) : State := { s with err := e, busy := false, done := true, pend := 0#4 }

end Sys2Proof.Machine
end

