-- ==== Sys2Proof/Machine/Ops.lean ====
section
/-!
DEFINITION. The named operations over the block's registers and over the model's own fields. The block has no trap and
no return from one (spec rules R147, R148): what stands in the place of an exception is the report of an error, which
`State.complete` makes in STATUS.ERR for every command alike.
-/

namespace Sys2Proof.Machine

/-- LEN keeps v[11:0] (R25, R62). -/
def State.writeLen (v : Word) (s : State) : State := { s with len := v.setWidth 12 }

/-- PAYLOAD[w] is written with `v` (R28). -/
def State.writePayload (w : Nat) (v : Word) (s : State) : State :=
  { s with pay := setBufferWord s.mMax.val w v s.pay }

/-- RESULT receives r = plan(m) and n = m + r (R84, R101). Both fit for every m ≤ M_MAX (R12, R120). -/
def State.writeResult (m : Nat) (s : State) : State :=
  { s with resR := BitVec.ofNat 4 (plan m), resN := BitVec.ofNat 12 (codewordLength m) }

/-- CODEWORD receives the codeword `c`, the rest of the buffer 0 (R101). -/
def State.writeCodeword (c : List Bool) (s : State) : State := { s with cw := codewordBuffer c }

/-- LEN, PAYLOAD, CODEWORD, RESULT, OVR and ERR become 0: ClearBody (R114). -/
def State.clearData (s : State) : State :=
  { s with len := 0#12, pay := 0#2048, cw := 0#2048, resN := 0#12, resR := 0#4, ovr := false, err := 0#4 }

/-- The block's reset (R33, R160): every bit of its state becomes 0, and a pending command is abandoned. The hosts, the
schedule and what has been observed are outside the block and stay (log entry 9). -/
def State.resetBlock (s : State) : State := { s.clearData with busy := false, done := false, pend := 0#4 }

/-- LEN is a length the block can hold (R142). -/
def State.lenFits (s : State) : Bool := s.len.toNat ≤ s.mMax.val

/-- One free value has been drawn. -/
def State.drawn (s : State) : State := { s with draws := s.draws + 1 }

/-- Host `k` observes a response. -/
def State.observe (k : Nat) (r : Response) (s : State) : State := { s with seen := (k, r) :: s.seen }

/-- The schedule is now `ts`. -/
def State.withTurns (ts : List Turn) (s : State) : State := { s with turns := ts }

/-- Host `k`'s program is now `ls`. -/
def State.setProgram (k : Nat) (ls : List Line) (s : State) : State := { s with hosts := s.hosts.set k ls }

/-- What remains to be done when a step goes on. -/
def afterNext (o : Host.Outcome State Fault Refusal) (f : State → State) : Host.Outcome State Fault Refusal :=
  match o with
  | .next s => .next (f s)
  | .fault r => .fault r
  | .refused r => .refused r

end Sys2Proof.Machine
end

