-- ==== Sys2Proof/Machine/Command.lean ====
section
/-!
DEFINITION. The meaning of each command, one definition per row of the opcode table. For every command but NOP it is the
command's ENGINE step, the body with the common end of R110; NOP has no ENGINE step, and its meaning is the effect of
the write itself (spec rules R84, R101, R110, R113 to R115; log entry 7).
-/

namespace Sys2Proof.Machine

/-- NOP (R113): no state changes, whether BUSY is 0 or 1. -/
def execNop (s : State) : Host.Outcome State Fault Refusal := .next s

/-- PLAN (R84): RESULT receives plan(LEN) and LEN + plan(LEN), or ERR = PLAN_ERR. -/
def execPlan (s : State) : Host.Outcome State Fault Refusal :=
  if s.lenFits then .next ((s.writeResult s.len.toNat).complete errOk) else .next (s.complete errPlan)

/-- ENCODE (R101): CODEWORD and RESULT receive the codeword of the first LEN payload bits and its counts, or
ERR = PLAN_ERR. -/
def execEncode (s : State) : Host.Outcome State Fault Refusal :=
  if s.lenFits then
    .next (((s.writeCodeword (hammingEncode (payloadBits s))).writeResult s.len.toNat).complete errOk)
  else .next (s.complete errPlan)

/-- CLEAR (R114): the reset state, but for DONE = 1. -/
def execClear (s : State) : Host.Outcome State Fault Refusal := .next (s.clearData.complete errOk)

/-- A reserved command with a code from 0x4 to 0x7 (R115): it completes with ERR = CMD_ERR. -/
def execReserved47 (_code : Code) (s : State) : Host.Outcome State Fault Refusal := .next (s.complete errCmd)

/-- A reserved command with a code from 0x8 to 0xF (R115): it completes with ERR = CMD_ERR. -/
def execReserved8F (_code : Code) (s : State) : Host.Outcome State Fault Refusal := .next (s.complete errCmd)

end Sys2Proof.Machine
end

