-- ==== Sys2Proof/Machine/Dispatch.lean ====
section
/-!
DEFINITION. The meaning of each instruction, one arm per row of spec/opcode_table.json.
-/

namespace Sys2Proof.Machine

def exec (i : Instr) (s : State) : Host.Outcome State Fault Refusal :=
  match i with
  | .nop => Sys2Proof.Machine.execNop s
  | .plan => Sys2Proof.Machine.execPlan s
  | .encode => Sys2Proof.Machine.execEncode s
  | .clear => Sys2Proof.Machine.execClear s
  | .reserved47 code => Sys2Proof.Machine.execReserved47 code s
  | .reserved8F code => Sys2Proof.Machine.execReserved8F code s

end Sys2Proof.Machine
end

