-- ==== Sys2Proof/Machine/Bus.lean ====
section
/-!
DEFINITION. Host reads and writes of the register window: `BusRead` (spec rule R116), `BusWrite` (R117) and the write of
CTRL that issues a command (R111).
-/

namespace Sys2Proof.Machine

/-- A read at `off` returns a free value in this state: BUSY = 1 and the register is RESULT or a CODEWORD word (R26,
R29, R116). -/
def readDraws (off : Offset) (s : State) : Bool := (targetOf off).isResult && s.busy

/-- The data of a defined read at `off` (R116). -/
def busReadData (off : Offset) (s : State) : Word :=
  if readDraws off s then Config.draw32 s.draws else targetWord s (targetOf off)

/-- The state after a read at `off`: the block is as it was (R45); only the model's count of drawn values moves. -/
def afterRead (off : Offset) (s : State) : State := if readDraws off s then s.drawn else s

/-- The command `i`, with code `c`, is written to CTRL (R111). NOP takes effect at once, BUSY or not (R113). Any other
command is dropped while BUSY = 1 (R112), and else accepted, to be performed by the ENGINE's step. -/
def issue (i : Instr) (c : Code) (s : State) : Host.Outcome State Fault Refusal :=
  match i with
  | .nop => exec .nop s
  | _ => if s.busy then .next s.dropWrite else .next (s.accept c)

/-- CtrlWrite (R111): CMD = v[3:0] is decoded, v[31:4] is ignored. -/
def ctrlWrite (v : Word) (s : State) : Host.Outcome State Fault Refusal := issue (decodeCmd v) (cmdField v) s

/-- A defined write of `v` at `off` (R117). Read-only registers and unmapped offsets ignore it. -/
def busWrite (off : Offset) (v : Word) (s : State) : Host.Outcome State Fault Refusal :=
  match targetOf off with
  | .ctrl => ctrlWrite v s
  | .len => .next (if s.busy then s.dropWrite else s.writeLen v)
  | .payload w => .next (if s.busy then s.dropWrite else s.writePayload w v)
  | .status => .next s
  | .result => .next s
  | .id => .next s
  | .codeword _ => .next s
  | .unmapped => .next s

/-- One transaction of host `k` (R61, R116, R117): its response is recorded. An undefined access is a bus error (R42,
R141), a read's data being a free value. -/
def busAccess (k : Nat) (t : Transaction) (s : State) : Host.Outcome State Fault Refusal :=
  match t with
  | .read off size =>
    if accessDefined off size then .next ((afterRead off s).observe k (.data (busReadData off s)))
    else .fault (.busError t (some (Config.draw32 s.draws)))
  | .write off size v =>
    if accessDefined off size then afterNext (busWrite off v s) (State.observe k .ack)
    else .fault (.busError t none)

end Sys2Proof.Machine
end

