-- ==== Sys2Proof/Machine/Agents.lean ====
section
/-!
DEFINITION. The agents and their turns (spec rules R20, R110, R118, R119, R122, R160): the ENGINE's step, a host's next
line, the reset input, and what happens when nothing more is offered.
-/

namespace Sys2Proof.Machine

/-- The ENGINE's step with BUSY = 1 (R110): the pending command, read from PEND, is performed whole. PEND = 0 cannot
occur here (R30). -/
def engineStep (s : State) : Host.Outcome State Fault Refusal :=
  if s.pend = 0#4 then .fault .engineWithoutCommand else exec (decodeCode s.pend) s

/-- The ENGINE's turn: its step is enabled exactly when BUSY = 1 (R110); else the block does not change (R118). -/
def engineTurn (s : State) : Host.Outcome State Fault Refusal := if s.busy then engineStep s else .next s

/-- Host `k` performs the first line of its program, `ls` being the lines after it. A `POLL` reads once and stays the
host's next line unless data & mask = val (R68). -/
def runLine (k : Nat) (l : Line) (ls : List Line) (s : State) : Host.Outcome State Fault Refusal :=
  match l with
  | .access t => busAccess k t (s.setProgram k ls)
  | .poll off mask val =>
    if busReadData off s &&& mask = val then busAccess k (.read off 4) (s.setProgram k ls)
    else busAccess k (.read off 4) s

/-- Host `k`'s turn. A host whose program has ended, or that does not exist, offers no transaction, and the block does
not change (R118, 92_eei_decisions.md D32). -/
def hostTurn (k : Nat) (s : State) : Host.Outcome State Fault Refusal :=
  match s.hosts[k]? with
  | some (l :: ls) => runLine k l ls s
  | _ => .next s

/-- One event of the total order (R118). -/
def runTurn (t : Turn) (s : State) : Host.Outcome State Fault Refusal :=
  match t with
  | .host k => hostTurn k s
  | .engine => engineTurn s
  | .reset => .next s.resetBlock

/-- The next event: the one the schedule names. When the schedule names no more, only the ENGINE is left, and it takes
its enabled step, as weak fairness asks (R110; log entry 4). -/
def nextEvent (s : State) : Host.Outcome State Fault Refusal :=
  match s.turns with
  | t :: ts => runTurn t (s.withTurns ts)
  | [] => engineTurn s

/-- The state in which the very next event performs the command word `w`. For NOP: a host of its own is about to write
`w` to CTRL. For any other command: `w` has just been accepted (R111) and the ENGINE has the next turn (log entry
8). -/
def State.loadCommand (w : Word) (s : State) : State :=
  match decodeCmd w with
  | .nop =>
    { s with hosts := s.hosts ++ [[.access (.write 0x000 4 w)]], turns := .host s.hosts.length :: s.turns }
  | _ => (s.accept (cmdField w)).withTurns (.engine :: s.turns)

end Sys2Proof.Machine
end

