-- ==== Sys2Proof/Machine/Step.lean ====
section
/-!
DEFINITION. One step of the machine: one event of the total order (spec rules R48, R118).
-/

namespace Sys2Proof.Machine

/-- One event (R118). -/
def step (s : State) : Host.Outcome State Fault Refusal := nextEvent s

/-- `s` with the command word `w` (its bits from `nbits` up taken as 0) where the very next step performs it
(log entry 8). -/
def State.withFetchWord (s : State) (nbits w : Nat) : State :=
  s.loadCommand (BitVec.ofNat 32 (w % 2 ^ nbits))

end Sys2Proof.Machine
end

