-- ==== Sys2Proof/Machine/Assembler.lean ====
section
/-!
DEFINITION. The assembler syntax of host programs (spec rule R68): register names, program lines with their
pseudo-instructions and expansions, and the reading of a program line from its characters.
-/

namespace Sys2Proof.Machine

/-- A register operand of a program line (R68). -/
inductive Reg where
  | ctrl
  | status
  | len
  | result
  | id
  | payload (w : Fin 64)
  | codeword (w : Fin 64)
  /-- A raw hexadecimal offset. -/
  | raw (off : Offset)
  deriving DecidableEq, Repr

/-- The offset a register operand stands for (R41). -/
def Reg.offset : Reg → Offset
  | .ctrl => 0x000
  | .status => 0x004
  | .len => 0x008
  | .result => 0x00C
  | .id => 0x010
  | .payload w => BitVec.ofNat 10 (0x100 + 4 * w.val)
  | .codeword w => BitVec.ofNat 10 (0x200 + 4 * w.val)
  | .raw off => off

/-- The names `CMD` and `RUN` take (R68). -/
inductive CommandName where
  | nop
  | plan
  | encode
  | clear
  deriving DecidableEq, Repr

/-- The command a name stands for (R63, R68). -/
def CommandName.instr : CommandName → Instr
  | .nop => .nop
  | .plan => .plan
  | .encode => .encode
  | .clear => .clear

/-- A line of a host program as it is written (R68). -/
inductive AsmLine where
  | wr (r : Reg) (imm : Word)
  | rd (r : Reg)
  | poll (r : Reg) (mask val : Word)
  | wait
  | cmd (name : CommandName)
  | run (name : CommandName)
  deriving DecidableEq, Repr

/-- `WR reg, imm32` (R68). -/
def wrLine (r : Reg) (imm : Word) : Line := .access (.write r.offset 4 imm)

/-- `RD reg` (R68). -/
def rdLine (r : Reg) : Line := .access (.read r.offset 4)

/-- `WAIT`: POLL STATUS, 0x1, 0x0, that is until BUSY = 0 (R68). -/
def waitLine : Line := .poll Reg.status.offset 0x1 0x0

/-- `CMD name`: WR CTRL with the command's code (R68). -/
def cmdLine (name : CommandName) : Line := wrLine .ctrl (Sys2Proof.encode name.instr)

/-- What a written line stands for (R68). -/
def AsmLine.expand : AsmLine → List Line
  | .wr r imm => [wrLine r imm]
  | .rd r => [rdLine r]
  | .poll r mask val => [.poll r.offset mask val]
  | .wait => [waitLine]
  | .cmd name => [cmdLine name]
  | .run name => [cmdLine name, waitLine]

/-- A host program: its written lines, one after another. -/
def assemble (program : List AsmLine) : List Line := program.flatMap AsmLine.expand

/-- The digits of a numeral in a base, most significant first; `acc` is the value read so far. -/
def readDigits (base : Nat) : (acc : Nat) → List Char → Option Nat
  | acc, [] => some acc
  | acc, ch :: rest =>
    let d := if '0' ≤ ch ∧ ch ≤ '9' then ch.toNat - '0'.toNat
      else if 'A' ≤ ch ∧ ch ≤ 'F' then ch.toNat - 'A'.toNat + 10
      else if 'a' ≤ ch ∧ ch ≤ 'f' then ch.toNat - 'a'.toNat + 10
      else base
    if d < base then readDigits base (acc * base + d) rest else none

/-- A numeral: decimal, or 0x-prefixed hexadecimal (R68). -/
def readNumeral : List Char → Option Nat
  | [] => none
  | '0' :: 'x' :: d :: rest => readDigits 16 0 (d :: rest)
  | d :: rest => readDigits 10 0 (d :: rest)

/-- An immediate: a 32-bit number (R68). -/
def readImm (cs : List Char) : Option Word :=
  match readNumeral cs with
  | some n => if n < 2 ^ 32 then some (BitVec.ofNat 32 n) else none
  | none => none

/-- A word index in brackets, `[w]` with w = 0..63 (R68). -/
def readIndex : List Char → Option (Fin 64)
  | '[' :: rest =>
    if rest.getLast? = some ']' then
      match readNumeral rest.dropLast with
      | some n => if h : n < 64 then some ⟨n, h⟩ else none
      | none => none
    else none
  | _ => none

/-- A register operand: a name, or a raw hexadecimal offset of the window (R68). -/
def readReg (cs : List Char) : Option Reg :=
  if cs = "CTRL".toList then some .ctrl
  else if cs = "STATUS".toList then some .status
  else if cs = "LEN".toList then some .len
  else if cs = "RESULT".toList then some .result
  else if cs = "ID".toList then some .id
  else if cs.take 7 = "PAYLOAD".toList then (readIndex (cs.drop 7)).map .payload
  else if cs.take 8 = "CODEWORD".toList then (readIndex (cs.drop 8)).map .codeword
  else if cs.take 2 = "0x".toList then
    match readNumeral cs with
    | some n => if n < 0x400 then some (.raw (BitVec.ofNat 10 n)) else none
    | none => none
  else none

/-- A command's name (R68). -/
def readCommandName (cs : List Char) : Option CommandName :=
  if cs = "NOP".toList then some .nop
  else if cs = "PLAN".toList then some .plan
  else if cs = "ENCODE".toList then some .encode
  else if cs = "CLEAR".toList then some .clear
  else none

/-- The words of a line. Spaces and commas separate them (log entry 15); `current` is the word being read, its last
character first. -/
def splitWords (current : List Char) : List Char → List (List Char)
  | [] => if current = [] then [] else [current.reverse]
  | ch :: rest =>
    if ch = ' ' ∨ ch = ',' then
      if current = [] then splitWords [] rest else current.reverse :: splitWords [] rest
    else splitWords (ch :: current) rest

/-- Read one program line from its characters (R68); none if it is no line of the syntax. -/
def readLine (cs : List Char) : Option AsmLine :=
  match splitWords [] cs with
  | [op] => if op = "WAIT".toList then some .wait else none
  | [op, a] =>
    if op = "RD".toList then (readReg a).map .rd
    else if op = "CMD".toList then (readCommandName a).map .cmd
    else if op = "RUN".toList then (readCommandName a).map .run
    else none
  | [op, a, b] =>
    if op = "WR".toList then
      match readReg a, readImm b with
      | some r, some v => some (.wr r v)
      | _, _ => none
    else none
  | [op, a, b, c] =>
    if op = "POLL".toList then
      match readReg a, readImm b, readImm c with
      | some r, some mask, some val => some (.poll r mask val)
      | _, _, _ => none
    else none
  | _ => none

end Sys2Proof.Machine
end

