-- ==== Sys2Proof/Safety.lean ====
section
/-!
DEFINITION. What counts as a safe state and a safe run, and what it means that a step leaves a part of the machine
alone, in the terms the statements use (spec rules R20, R24, R28 to R30, R98).
-/

namespace Sys2Proof.Machine

/-- The invariant of the block. Every state a run reaches from reset meets it. -/
abbrev State.Inv (s : State) : Prop :=
  -- R30: BUSY = 0 → PEND = 0, and BUSY = 1 → PEND ≠ 0
  (s.busy = false → s.pend = 0#4) ∧ (s.busy = true → s.pend ≠ 0#4) ∧
  -- R32: acceptance clears DONE and ERR, and only the ENGINE step sets them
  (s.busy = true → s.done = false) ∧ (s.done = false → s.err = 0#4) ∧
  -- R24, R140: ERR is 0, 1 or 2
  s.err.toNat ≤ 2 ∧
  -- R28: no PAYLOAD slot at or beyond M_MAX holds a bit
  s.pay &&& slotsBelow s.mMax.val = s.pay ∧
  -- R29: no CODEWORD slot at or beyond N_MAX holds a bit
  s.cw &&& slotsBelow s.nMax = s.cw ∧
  -- R26: RESULT holds plan(m) and m + plan(m) for one m ≤ M_MAX
  (s.resR.toNat ≤ s.resN.toNat ∧ s.resN.toNat - s.resR.toNat ≤ s.mMax.val ∧
    plan (s.resN.toNat - s.resR.toNat) = s.resR.toNat)

/-- The bits of CODEWORD, position 1 first (R29). -/
def codewordBits (s : State) : List Bool := (List.range 2048).map s.cw.getLsbD

/-- The XOR of the bits of the codeword `c` at the positions t of 1..n that `member` picks, written straight from R93
and R97: no walk, no accumulator but the XOR. Element b of the list is position b + 1. -/
def positionXor (member : Nat → Bool) (c : List Bool) : Bool :=
  ((List.range c.length).map fun b => member (b + 1) && c.getD b false).foldr Bool.xor false

/-- Position t is in the coverage set of parity position 2^k: t & 2^k ≠ 0 (R13). -/
def covered (k t : Nat) : Bool := t &&& 2 ^ k != 0

/-- Every parity group of the word that CODEWORD holds has even parity: for each k below R_MAX, the XOR over the
positions t with (t & 2^k) ≠ 0 is 0 (R98). -/
def State.EvenGroups (s : State) : Prop := ∀ k < s.rMax, positionXor (covered k) (codewordBits s) = false

/-- The data registers of the block are the same: LEN, PAYLOAD, CODEWORD and RESULT. -/
abbrev SameData (s t : State) : Prop :=
  t.len = s.len ∧ t.pay = s.pay ∧ t.cw = s.cw ∧ t.resN = s.resN ∧ t.resR = s.resR

/-- STATUS and PEND are the same. -/
abbrev SameFlags (s t : State) : Prop :=
  t.busy = s.busy ∧ t.done = s.done ∧ t.ovr = s.ovr ∧ t.err = s.err ∧ t.pend = s.pend

/-- The block's complete state (R20) and its parameter are the same. -/
abbrev SameBlock (s t : State) : Prop := SameData s t ∧ SameFlags s t ∧ t.mMax = s.mMax

/-- Everything outside the block is the same. -/
abbrev SameWorld (s t : State) : Prop :=
  t.hosts = s.hosts ∧ t.turns = s.turns ∧ t.seen = s.seen ∧ t.draws = s.draws

/-- The next event is host `k`'s, and the next line of its program is `l`; `ls` are its lines after that, and `ts` is
the schedule after this event. -/
abbrev Offers (s : State) (k : Nat) (l : Line) (ls : List Line) (ts : List Turn) : Prop :=
  s.turns = .host k :: ts ∧ s.hosts[k]? = some (l :: ls)

/-- The state once host `k` has taken its next line and the schedule has moved on: the block is as it was. -/
def State.took (s : State) (k : Nat) (ls : List Line) (ts : List Turn) : State :=
  (s.withTurns ts).setProgram k ls

/-- The transaction is a CTRL write that is accepted in this state (R111). -/
abbrev AcceptsCommand (s : State) (t : Transaction) : Prop :=
  ∃ v, t = .write 0x000 4 v ∧ cmdField v ≠ 0x0#4 ∧ s.busy = false

/-- The transaction is a write that is dropped in this state (R112): BUSY = 1, and it is a CTRL write with CMD ≠ 0, a
LEN write or a write of a PAYLOAD word. -/
abbrev IsDropped (s : State) (t : Transaction) : Prop :=
  ∃ off v, t = .write off 4 v ∧ s.busy = true ∧
    ((off = 0x000 ∧ cmdField v ≠ 0x0#4) ∨ off = 0x008 ∨
      (0x100 ≤ off.toNat ∧ off.toNat < 0x200 ∧ off.toNat % 4 = 0))

/-- The next event is the ENGINE's step: BUSY = 1, and the ENGINE has the turn or nothing else is scheduled (R110). -/
abbrev EngineIsNext (s : State) : Prop :=
  s.busy = true ∧ (s.turns = [] ∨ ∃ ts, s.turns = .engine :: ts)

/-- The next event is the reset input (R160). -/
abbrev ResetIsNext (s : State) : Prop := ∃ ts, s.turns = .reset :: ts

/-- The PAYLOAD word `w` that holds the payload `p`: bit b of the word is p[32w + b] (R28, R162 step 4). -/
def payloadWord (p : List Bool) (w : Nat) : Word :=
  (BitVec.ofBoolListLE ((p.drop (32 * w)).take 32)).setWidth 32

/-- How many PAYLOAD words hold the bits of an m-bit payload, ceil(m/32) (R162 step 4). -/
def payloadWords (m : Nat) : Nat := (m + 31) / 32

/-- The host program of R162, steps 4 to 6: write the PAYLOAD words that hold `p`, write LEN, and run ENCODE. -/
def encodeProgram (p : List Bool) : List Line :=
  (List.range (payloadWords p.length)).map
      (fun w => .access (.write (BitVec.ofNat 10 (0x100 + 4 * w)) 4 (payloadWord p w)))
    ++ [wrLine .len (BitVec.ofNat 32 p.length), cmdLine .encode, waitLine]

end Sys2Proof.Machine
end

