-- ==== Sys2Proof/Certificates/Slice0/Obligations.lean ====
section
/-!
DEFINITION. The statements for the provers, each citing the rule of the spec it formalises. Where a clause rests on a
choice of the model, the docstring names the log entry.
-/

open Sys2Proof Sys2Proof.Machine

-- Encoding

/-- Command words written out from R63, some with ignored bits set (95_test_vectors.md section 2.4), decode to the
command they stand for. -/
def Obligations.CommandWordsDecode : Prop :=
  decodeTableWord 32 0x00000000 = some .nop ∧ decodeTableWord 32 0xFFFFFFF0 = some .nop ∧
  decodeTableWord 32 0x00000001 = some .plan ∧ decodeTableWord 32 0x00000002 = some .encode ∧
  decodeTableWord 32 0x12345672 = some .encode ∧ decodeTableWord 32 0x00000003 = some .clear ∧
  decodeTableWord 32 0x00000007 = some (.reserved47 0x7) ∧ decodeTableWord 32 0x0000000F = some (.reserved8F 0xF)

/-- Decoding the bytes of a well-formed instruction's command word, whatever bytes follow, gives the instruction back
and leaves the bytes after it; the word takes four bytes and has its ignored bits 0 (R60, R63). -/
def Obligations.DecodeOfEncodeIsTheInstruction : Prop :=
  ∀ (i : Instr) (rest : List Byte), i.wellFormed = true →
    decode (encodeBytes i ++ rest) = .ok (i, rest) ∧ (encodeBytes i).length = 4 ∧
    decodeTableWord 32 (encode i).toNat = some i ∧ (encode i).toNat < 16

/-- R65: two words decode alike exactly when their bits 3:0 agree, and the words with CMD = 0 are the only ones whose
write to CTRL has no effect in any state, BUSY or not. -/
def Obligations.OnlyCmdSelectsTheCommand : Prop :=
  (∀ v w : Word, decodeCmd v = decodeCmd w ↔ v.toNat % 16 = w.toNat % 16) ∧
  (∀ v : Word, (∀ s : State, ctrlWrite v s = .next s) ↔ v.toNat % 16 = 0)

/-- R63, the map and its totality: every word belongs to exactly one row of the opcode table, and decodes to that row's
command; a reserved command keeps its code. -/
def Obligations.CommandMapIsTotalAndDisjoint : Prop :=
  ∀ v : Word,
    (opcodeTable.filter (fun r => r.hits v)).map (fun r => r.mnemonic) = [(decodeCmd v).mnemonic] ∧
    (decodeCmd v).wellFormed = true ∧ (decodeCmd v).code.toNat = v.toNat % 16

-- The planner

/-- R80: plan(m) is the least r with 2^r ≥ m + r + 1, and such an r always exists, for r = m + 1 is one. -/
def Obligations.PlanIsTheLeastParityCount : Prop :=
  ∀ m : Nat, IsLeast { r : Nat | 2 ^ r ≥ m + r + 1 } (plan m) ∧ 2 ^ (m + 1) ≥ m + (m + 1) + 1

/-- R81: minimality, bounds, monotonicity, positivity and the table of ranges (for r ≥ 2 by the closed form that ends
R81, which gives each row, with the codeword lengths n of the row). -/
def Obligations.PlanProperties : Prop :=
  (∀ m, 2 ^ plan m ≥ m + plan m + 1 ∧ (plan m > 0 → 2 ^ (plan m - 1) < m + plan m)) ∧
  (∀ m, plan m ≤ m + 1 ∧ (3 ≤ m → plan m ≤ m) ∧ (4 ≤ m → plan m < m)) ∧
  (∀ m m', m ≤ m' → plan m ≤ plan m') ∧
  (∀ m, 1 ≤ m → 2 ≤ plan m) ∧
  (∀ m, (plan m = 0 ↔ m = 0) ∧ plan m ≠ 1) ∧
  (∀ m r, 2 ≤ r → (plan m = r ↔ 2 ^ (r - 1) + 1 ≤ m + r ∧ m + r + 1 ≤ 2 ^ r)) ∧
  (∀ m r, 2 ≤ r → plan m = r → 2 ^ (r - 1) + 1 ≤ codewordLength m ∧ codewordLength m ≤ 2 ^ r - 1) ∧
  codewordLength 0 = 0

/-- R6: the capacities at the reference value, and that R_MAX and N_MAX are large enough for every accepted length, at
every M_MAX; with R12, that they fit RESULT's fields. -/
def Obligations.CapacitiesCoverEveryAcceptedLength : Prop :=
  (∀ s : State, s.mMax.val = 2036 → s.rMax = 11 ∧ s.nMax = 2047) ∧
  (∀ (s : State) (m : Nat), m ≤ s.mMax.val → plan m ≤ s.rMax ∧ codewordLength m ≤ s.nMax) ∧
  (∀ s : State, s.rMax ≤ 11 ∧ s.nMax ≤ 2047)

-- The encoding function

/-- R95: the length law. -/
def Obligations.CodewordLengthLaw : Prop :=
  ∀ p : List Bool, (hammingEncode p).length = p.length + plan p.length

/-- R92: the parity positions of 1..n are exactly 2^0 to 2^(r-1); the other positions number m, so the walk uses up the
payload; and data position i holds p[i - ilog2(i) - 2]. -/
def Obligations.DataPlacement : Prop :=
  ∀ p : List Bool,
    (∀ i, 1 ≤ i → i ≤ codewordLength p.length → (isPow2 i = true ↔ ∃ k < plan p.length, i = 2 ^ k)) ∧
    ((List.range (codewordLength p.length)).filter (fun b => !isPow2 (b + 1))).length = p.length ∧
    (∀ i, 1 ≤ i → i ≤ codewordLength p.length → isPow2 i = false →
      Nat.log2 i + 2 ≤ i ∧ i - Nat.log2 i - 2 < p.length ∧
      (hammingEncode p).getD (i - 1) false = p.getD (i - Nat.log2 i - 2) false)

/-- R96: the data positions of encode(p), read in increasing order, are p. -/
def Obligations.DataIsRecovered : Prop := ∀ p : List Bool, extractData (hammingEncode p) = p

/-- R98: in every codeword encode produces, the XOR over the coverage set of each parity position is 0. -/
def Obligations.EveryParityGroupIsEven : Prop :=
  ∀ (p : List Bool) (k : Nat), k < plan p.length → positionXor (covered k) (hammingEncode p) = false

/-- R97: no parity position lies in another's coverage set; each parity bit is the XOR of the data positions it covers;
and the parity bits may be computed in any order with the same result. -/
def Obligations.ParityOrderIsFree : Prop :=
  (∀ l k : Nat, l ≠ k → 2 ^ l &&& 2 ^ k = 0) ∧
  (∀ (p : List Bool) (k : Nat), k < plan p.length →
    (hammingEncode p).getD (2 ^ k - 1) false =
      positionXor (fun t => !isPow2 t && covered k t) (hammingEncode p)) ∧
  (∀ (p : List Bool) (ks : List Nat), ks.Perm (List.range (plan p.length)) →
    ks.foldl setParity (placeData (codewordLength p.length) 1 p) = hammingEncode p)

/-- 41_encoder.md section 3, corner cases, as facts of encode: the empty payload, one bit repeated three times, the
all-zero payload, and the all-ones payload of a perfect length. -/
def Obligations.EncodeCornerCases : Prop :=
  hammingEncode [] = [] ∧ (∀ b : Bool, hammingEncode [b] = [b, b, b]) ∧
  (∀ m : Nat, hammingEncode (List.replicate m false) = List.replicate (codewordLength m) false) ∧
  (∀ r : Nat, 2 ≤ r →
    hammingEncode (List.replicate (2 ^ r - r - 1) true) = List.replicate (2 ^ r - 1) true)

-- The commands

/-- R113: NOP completes in every state and changes nothing. Written to CTRL by any host, with any ignored bits, BUSY or
not, it leaves the whole block as it was, and no ENGINE step becomes enabled. -/
def Obligations.NopChangesNothing : Prop :=
  (∀ s : State, exec .nop s = .next s) ∧
  (∀ (s : State) (k : Nat) (v : Word) (ls : List Line) (ts : List Turn),
    Offers s k (.access (.write 0x000 4 v)) ls ts → v.toNat % 16 = 0 →
      ∃ t, step s = .next t ∧ SameBlock s t ∧ t.seen = (k, .ack) :: s.seen ∧
        busReadData 0x004 t = busReadData 0x004 s)

/-- R84: PLAN with LEN ≤ M_MAX writes RESULT and completes with ERR = 0; with LEN > M_MAX it completes with PLAN_ERR
and keeps RESULT; it reads no PAYLOAD and writes no LEN, PAYLOAD, CODEWORD or OVR; with R84's corner cases and worked
examples. -/
def Obligations.PlanCommandEffect : Prop :=
  (∀ v : Word, decodeCmd v = .plan ↔ v.toNat % 16 = 1) ∧
  (∀ s : State, s.len.toNat ≤ s.mMax.val → ∃ t, exec .plan s = .next t ∧
    t.resR.toNat = plan s.len.toNat ∧ t.resN.toNat = s.len.toNat + plan s.len.toNat ∧
    t = { s with resR := t.resR, resN := t.resN, err := 0, busy := false, done := true, pend := 0 }) ∧
  (∀ s : State, s.mMax.val < s.len.toNat →
    exec .plan s = .next { s with err := 1, busy := false, done := true, pend := 0 }) ∧
  (∀ (s t : State) (p : Buffer), exec .plan s = .next t → exec .plan { s with pay := p } = .next { t with pay := p }) ∧
  (∀ s t : State, exec .plan s = .next t →
    (s.len.toNat = 0 → busReadData 0x00C t = 0x00000000) ∧
    (s.len.toNat = 1 → 1 ≤ s.mMax.val → busReadData 0x00C t = 0x00020003) ∧
    (s.len.toNat = 4 → 4 ≤ s.mMax.val → busReadData 0x00C t = 0x00030007) ∧
    (s.len.toNat = 8 → 8 ≤ s.mMax.val → busReadData 0x00C t = 0x0004000C) ∧
    (s.len.toNat = 2036 → s.mMax.val = 2036 → busReadData 0x00C t = 0x000B07FF) ∧
    (s.len.toNat = s.mMax.val → t.err = 0) ∧ (s.len.toNat = s.mMax.val + 1 → t.err = 1))

/-- 41_encoder.md section 3, R101's ENGINE step with LEN ≤ M_MAX: CODEWORD holds the codeword of the first LEN payload
bits and 0 beyond it, RESULT its counts; LEN, PAYLOAD and OVR are unchanged; and a second ENCODE with no write between
gives the same again. -/
def Obligations.EncodeCommandEffect : Prop :=
  ∀ s : State, s.len.toNat ≤ s.mMax.val → ∃ (p : List Bool) (t : State), exec .encode s = .next t ∧
    (p.length = s.len.toNat ∧ ∀ j < p.length, p.getD j false = s.pay.getLsbD j) ∧
    (∀ b, b < s.len.toNat + plan s.len.toNat → t.cw.getLsbD b = (hammingEncode p).getD b false) ∧
    (∀ b, s.len.toNat + plan s.len.toNat ≤ b → t.cw.getLsbD b = false) ∧
    t.resR.toNat = plan s.len.toNat ∧ t.resN.toNat = s.len.toNat + plan s.len.toNat ∧
    t = { s with cw := t.cw, resR := t.resR, resN := t.resN, err := 0, busy := false, done := true, pend := 0 } ∧
    exec .encode t = .next t

/-- R142: PLAN_ERR is set by PLAN and ENCODE exactly when LEN > M_MAX at the ENGINE step. It is a defined outcome: the
command completes, and nothing but ERR, BUSY, DONE and PEND changes, so LEN keeps the offending value. -/
def Obligations.LengthErrorIsPlanErr : Prop :=
  (∀ (i : Instr) (s : State), (i = .plan ∨ i = .encode) → s.mMax.val < s.len.toNat →
    exec i s = .next { s with err := 1, busy := false, done := true, pend := 0 }) ∧
  (∀ (i : Instr) (s t : State), i ≠ .nop → exec i s = .next t →
    (t.err = 1 ↔ (i = .plan ∨ i = .encode) ∧ s.mMax.val < s.len.toNat)) ∧
  (∀ (i : Instr) (s t : State), (i = .plan ∨ i = .encode) → exec i s = .next t →
    (t.err = 0 ↔ s.len.toNat ≤ s.mMax.val))

/-- R114: CLEAR completes in every state; the block's state is then the reset state but for DONE = 1, at the same M_MAX.
A CLEAR written while BUSY = 1 is dropped and sets OVR; one that is accepted leaves OVR for its ENGINE step to clear;
with R114's worked example, from STATUS = 0x16 to STATUS = 0x2. -/
def Obligations.ClearCommandEffect : Prop :=
  (∀ v : Word, decodeCmd v = .clear ↔ v.toNat % 16 = 3) ∧
  (∀ s : State, ∃ t, exec .clear s = .next t ∧
    SameBlock { State.resetAt s.mMax with done := true } t ∧ SameWorld s t) ∧
  (∀ (s : State) (v : Word), v.toNat % 16 = 3 →
    (s.busy = true → ctrlWrite v s = .next { s with ovr := true }) ∧
    (s.busy = false → ∃ t, ctrlWrite v s = .next t ∧ t.ovr = s.ovr)) ∧
  (∀ s a : State, s.busy = false → busReadData 0x004 s = 0x00000016 → ctrlWrite 0x3 s = .next a →
    busReadData 0x004 a = 0x00000005 ∧
    ∃ t, engineTurn a = .next t ∧ busReadData 0x004 t = 0x00000002 ∧ busReadData 0x008 t = 0 ∧
      busReadData 0x00C t = 0)

/-- R115: a reserved command of either row, with any code and any LEN, completes with ERR = CMD_ERR and changes nothing
else but BUSY, DONE and PEND; a write of a reserved code to an idle block is accepted, and its ENGINE step ends with
STATUS = 0x22 (when OVR is 0). -/
def Obligations.ReservedCommandsReportCmdErr : Prop :=
  (∀ (c : Code) (s : State),
    exec (.reserved47 c) s = .next { s with err := 2, busy := false, done := true, pend := 0 } ∧
    exec (.reserved8F c) s = .next { s with err := 2, busy := false, done := true, pend := 0 }) ∧
  (∀ v : Word, (∃ c, decodeCmd v = .reserved47 c ∨ decodeCmd v = .reserved8F c) ↔ 4 ≤ v.toNat % 16) ∧
  (∀ (s : State) (v : Word), s.busy = false → 4 ≤ v.toNat % 16 →
    ∃ a t, ctrlWrite v s = .next a ∧ engineTurn a = .next t ∧
      t = { s with err := 2, busy := false, done := true, pend := 0 } ∧
      (s.ovr = false → busReadData 0x004 t = 0x00000022))

/-- D30: ENCODE's results depend on nothing but LEN, M_MAX and the payload bits below LEN. -/
def Obligations.EncodeDependsOnlyOnItsOperands : Prop :=
  ∀ s u : State, s.len = u.len → s.mMax = u.mMax →
    (∀ j < s.len.toNat, s.pay.getLsbD j = u.pay.getLsbD j) →
    ∃ t v, exec .encode s = .next t ∧ exec .encode u = .next v ∧ t.err = v.err ∧
      (s.len.toNat ≤ s.mMax.val → t.cw = v.cw ∧ t.resR = v.resR ∧ t.resN = v.resN)

-- Acceptance, dropped writes, host accesses

/-- R111: the effect of a write of v to CTRL, by cases; acceptance changes PEND, BUSY, DONE and ERR and nothing else;
with the worked example, from reset. -/
def Obligations.CommandAcceptance : Prop :=
  (∀ (s : State) (v : Word), v.toNat % 16 = 0 → ctrlWrite v s = .next s) ∧
  (∀ (s : State) (v : Word), v.toNat % 16 ≠ 0 → s.busy = true → ctrlWrite v s = .next { s with ovr := true }) ∧
  (∀ (s : State) (v : Word), v.toNat % 16 ≠ 0 → s.busy = false →
    ∃ t, ctrlWrite v s = .next t ∧ t.pend.toNat = v.toNat % 16 ∧
      t = { s with pend := t.pend, busy := true, done := false, err := 0 }) ∧
  (∀ m, ∃ a t, ctrlWrite 0x1 (State.resetAt m) = .next a ∧ busReadData 0x004 a = 0x00000001 ∧
    engineTurn a = .next t ∧ busReadData 0x004 t = 0x00000002)

/-- R112: while BUSY = 1 the writes the rule names are dropped and set OVR, no other write does; once set, OVR is
cleared by nothing but CLEAR's ENGINE step and reset. -/
def Obligations.WritesWhileBusyAreDropped : Prop :=
  (∀ (s : State) (k : Nat) (tr : Transaction) (ls : List Line) (ts : List Turn),
    Offers s k (.access tr) ls ts → IsDropped s tr →
      step s = .next { s with turns := ts, hosts := s.hosts.set k ls, ovr := true, seen := (k, .ack) :: s.seen }) ∧
  (∀ s t : State, step s = .next t → s.ovr = false → t.ovr = true →
    ∃ k tr ls ts, Offers s k (.access tr) ls ts ∧ IsDropped s tr) ∧
  (∀ s t : State, step s = .next t → s.ovr = true → t.ovr = false →
    ResetIsNext s ∨ (EngineIsNext s ∧ s.pend = 0x3#4))

/-- 42_control.md section 4 (R116): what a host read returns at every offset, in every state, and that it changes no
state of the block. Three parts are the model's own form and no rule of the spec: a draw is Config.draw32 of the counter
(log entry 3); an undefined access is a fault with the transaction and a draw (log entries 3 and 6); a response is
recorded at the head of seen (log entry 6). -/
def Obligations.BusReadValues : Prop :=
  ∀ s : State,
    (∀ (k : Nat) (off : Offset), off.toNat % 4 = 0 → ∃ t, busAccess k (.read off 4) s = .next t ∧ SameBlock s t ∧
      t.hosts = s.hosts ∧ t.turns = s.turns ∧ t.seen = (k, .data (busReadData off s)) :: s.seen) ∧
    (∀ (k : Nat) (off : Offset) (size : Nat), ¬ (size = 4 ∧ off.toNat % 4 = 0) →
      busAccess k (.read off size) s = .fault (.busError (.read off size) (some (Config.draw32 s.draws)))) ∧
    busReadData 0x000 s = 0x00000000 ∧
    (busReadData 0x004 s).toNat = 16 * s.err.toNat + 4 * s.ovr.toNat + 2 * s.done.toNat + s.busy.toNat ∧
    (busReadData 0x008 s).toNat = s.len.toNat ∧
    (s.busy = true → busReadData 0x00C s = Config.draw32 s.draws) ∧
    (s.busy = false → (busReadData 0x00C s).toNat = 65536 * s.resR.toNat + s.resN.toNat) ∧
    (busReadData 0x010 s).toNat = 2 ^ 28 + 2 ^ 16 * s.nMax + 2 ^ 12 * s.rMax + s.mMax.val ∧
    (∀ w < 64, ∀ b < 32, (busReadData (BitVec.ofNat 10 (0x100 + 4 * w)) s).getLsbD b =
      (decide (32 * w + b < s.mMax.val) && s.pay.getLsbD (32 * w + b))) ∧
    (∀ w < 64, s.busy = true → busReadData (BitVec.ofNat 10 (0x200 + 4 * w)) s = Config.draw32 s.draws) ∧
    (∀ w < 64, ∀ b < 32, s.busy = false → (busReadData (BitVec.ofNat 10 (0x200 + 4 * w)) s).getLsbD b =
      (decide (32 * w + b < s.nMax) && s.cw.getLsbD (32 * w + b))) ∧
    (∀ off : Offset, off.toNat % 4 = 0 → (0x014 ≤ off.toNat ∧ off.toNat < 0x100 ∨ 0x300 ≤ off.toNat) →
      busReadData off s = 0x00000000)

/-- R117: what a host write does at every offset, in every state. -/
def Obligations.BusWriteEffects : Prop :=
  ∀ s : State,
    (∀ (k : Nat) (off : Offset) (v : Word), off.toNat % 4 = 0 → ∃ t, busWrite off v s = .next t ∧
      busAccess k (.write off 4 v) s = .next { t with seen := (k, .ack) :: s.seen } ∧ SameWorld s t) ∧
    (∀ (k : Nat) (off : Offset) (size : Nat) (v : Word), ¬ (size = 4 ∧ off.toNat % 4 = 0) →
      busAccess k (.write off size v) s = .fault (.busError (.write off size v) none)) ∧
    (∀ v, busWrite 0x000 v s = ctrlWrite v s) ∧
    (∀ v, s.busy = true → busWrite 0x008 v s = .next { s with ovr := true }) ∧
    (∀ v, s.busy = false → ∃ t, busWrite 0x008 v s = .next t ∧ t.len.toNat = v.toNat % 4096 ∧
      t = { s with len := t.len }) ∧
    (∀ w < 64, ∀ v, s.busy = true →
      busWrite (BitVec.ofNat 10 (0x100 + 4 * w)) v s = .next { s with ovr := true }) ∧
    (∀ w < 64, ∀ v, s.busy = false → ∃ t, busWrite (BitVec.ofNat 10 (0x100 + 4 * w)) v s = .next t ∧
      (∀ b < 32, 32 * w + b < s.mMax.val → t.pay.getLsbD (32 * w + b) = v.getLsbD b) ∧
      (∀ i, (i < 32 * w ∨ 32 * w + 32 ≤ i ∨ s.mMax.val ≤ i) → t.pay.getLsbD i = s.pay.getLsbD i) ∧
      t = { s with pay := t.pay }) ∧
    (∀ (off : Offset) (v : Word), off.toNat % 4 = 0 →
      (off = 0x004 ∨ off = 0x00C ∨ off = 0x010 ∨ (0x014 ≤ off.toNat ∧ off.toNat < 0x100) ∨ 0x200 ≤ off.toNat) →
      busWrite off v s = .next s)

/-- R42, R141: a transaction is a bus error exactly when its size is not 4 or its offset is not a multiple of 4. The
run stops there with the transaction and, for a read, a free value (its form: log entry 3); the model's fault keeps no
state after it, for the access changes none (log entry 6). -/
def Obligations.UndefinedAccessIsBusError : Prop :=
  (∀ (s : State) (k : Nat) (off : Offset) (size : Nat) (ls : List Line) (ts : List Turn),
    Offers s k (.access (.read off size)) ls ts →
      ((∃ t, step s = .next t) ↔ size = 4 ∧ off.toNat % 4 = 0) ∧
      (¬ (size = 4 ∧ off.toNat % 4 = 0) →
        step s = .fault (.busError (.read off size) (some (Config.draw32 s.draws))))) ∧
  (∀ (s : State) (k : Nat) (off : Offset) (size : Nat) (v : Word) (ls : List Line) (ts : List Turn),
    Offers s k (.access (.write off size v)) ls ts →
      ((∃ t, step s = .next t) ↔ size = 4 ∧ off.toNat % 4 = 0) ∧
      (¬ (size = 4 ∧ off.toNat % 4 = 0) → step s = .fault (.busError (.write off size v) none)))

/-- R43: an aligned 32-bit access to an unmapped offset reads 0, and writing it changes no state and sets no OVR, even
while BUSY = 1. -/
def Obligations.UnmappedOffsetsReadZeroAndIgnoreWrites : Prop :=
  ∀ (s : State) (off : Offset) (v : Word), off.toNat % 4 = 0 →
    (0x014 ≤ off.toNat ∧ off.toNat < 0x100 ∨ 0x300 ≤ off.toNat) →
    busReadData off s = 0 ∧ busWrite off v s = .next s

/-- R27: ID's fields, for every M_MAX; that writes are ignored; and its value at the reference M_MAX. -/
def Obligations.IdReportsTheCapacity : Prop :=
  (∀ s : State, ((busReadData 0x010 s).extractLsb' 0 12).toNat = s.mMax.val ∧
    ((busReadData 0x010 s).extractLsb' 12 4).toNat = plan s.mMax.val ∧
    ((busReadData 0x010 s).extractLsb' 16 12).toNat = s.mMax.val + plan s.mMax.val ∧
    ((busReadData 0x010 s).extractLsb' 28 4).toNat = 1) ∧
  (∀ (s : State) (v : Word), busWrite 0x010 v s = .next s) ∧
  (∀ s : State, s.mMax.val = 2036 → busReadData 0x010 s = 0x17FFB7F4)

/-- R25: LEN keeps v[11:0], its reserved bits read 0, and lengths above M_MAX are stored but give PLAN_ERR. -/
def Obligations.LenRegister : Prop :=
  (∀ (s : State) (v : Word), s.busy = false → ∃ t, busWrite 0x008 v s = .next t ∧
    (busReadData 0x008 t).toNat = v.toNat % 4096 ∧
    ∀ i : Instr, (i = .plan ∨ i = .encode) → ∃ u, exec i t = .next u ∧
      u.err = if v.toNat % 4096 ≤ s.mMax.val then 0 else 1) ∧
  (∀ (s : State) (v : Word), s.busy = true → ∃ t, busWrite 0x008 v s = .next t ∧ t.len = s.len) ∧
  (∀ s : State, (busReadData 0x008 s).extractLsb' 12 20 = 0) ∧
  busReadData 0x008 State.reset = 0

/-- R28: a PAYLOAD word that is written reads back without the bits that do not exist; the other words of the window
read as before, and so does CODEWORD. -/
def Obligations.PayloadWordsReadBack : Prop :=
  ∀ (s : State) (w : Nat) (v : Word), w < 64 → s.busy = false →
    ∃ t, busWrite (BitVec.ofNat 10 (0x100 + 4 * w)) v s = .next t ∧
      (∀ b < 32, (busReadData (BitVec.ofNat 10 (0x100 + 4 * w)) t).getLsbD b =
        (v.getLsbD b && decide (32 * w + b < s.mMax.val))) ∧
      (∀ off : Offset, off.toNat % 4 = 0 → off ≠ BitVec.ofNat 10 (0x100 + 4 * w) →
        busReadData off t = busReadData off s)

/-- R45: a defined read, or a line that polls, changes no state of the block; so a read that is no draw, repeated, gives
the same data. -/
def Obligations.ReadsHaveNoSideEffects : Prop :=
  (∀ (s t : State) (k : Nat) (l : Line) (ls : List Line) (ts : List Turn), Offers s k l ls ts →
    ((∃ off size, l = .access (.read off size)) ∨ ∃ off mask val, l = .poll off mask val) → step s = .next t →
      SameBlock s t) ∧
  (∀ (s t : State) (k : Nat) (off : Offset), busAccess k (.read off 4) s = .next t →
    (s.busy = false ∨ (targetOf off).isResult = false) → ∀ off', (s.busy = false ∨ (targetOf off').isResult = false) →
      busReadData off' t = busReadData off' s)

/-- R119, R151: the block neither records nor checks which host made an access: two hosts' same access has the same
effect and the same response. -/
def Obligations.HostsAreTreatedAlike : Prop :=
  ∀ (s : State) (j k : Nat) (t : Transaction),
    (∃ f, busAccess j t s = .fault f ∧ busAccess k t s = .fault f) ∨
    (∃ (u : State) (r : Response), busAccess j t s = .next { u with seen := (j, r) :: s.seen } ∧
      busAccess k t s = .next { u with seen := (k, r) :: s.seen })

/-- R41: the register map. Every aligned offset has exactly the register the map names. -/
def Obligations.RegisterMap : Prop :=
  targetOf 0x000 = .ctrl ∧ targetOf 0x004 = .status ∧ targetOf 0x008 = .len ∧ targetOf 0x00C = .result ∧
  targetOf 0x010 = .id ∧
  (∀ w : Fin 64, targetOf (Reg.payload w).offset = .payload w.val ∧ (Reg.payload w).offset.toNat = 0x100 + 4 * w.val) ∧
  (∀ w : Fin 64, targetOf (Reg.codeword w).offset = .codeword w.val ∧
    (Reg.codeword w).offset.toNat = 0x200 + 4 * w.val) ∧
  (∀ off : Offset, off.toNat % 4 = 0 →
    (targetOf off = .unmapped ↔ (0x014 ≤ off.toNat ∧ off.toNat < 0x100 ∨ 0x300 ≤ off.toNat)))

/-- R40: an offset of the window is reached at BASE + offset, BASE a multiple of 1 KiB, and no address outside the
window reaches the block. BASE is a free parameter (log entry 2). -/
def Obligations.WindowStandsAtBase : Prop :=
  Config.base % 1024 = 0 ∧ (∀ off : Offset, windowOffset (windowAddress off) = some off) ∧
  (∀ (a : Nat) (off : Offset), windowOffset a = some off ↔ a = Config.base + off.toNat)

-- The machine

/-- The step performs the decoded instruction. At the ENGINE's turn with a command pending, the step is the meaning of
the instruction PEND decodes to, the schedule moved on; the same when nothing more is scheduled. A host's write of a
word that decodes to NOP is the meaning of NOP, and then the acknowledgement. A host's write of any other command to an
idle block stores that instruction's code in PEND (log entry 7). -/
def Obligations.StepPerformsTheDecodedInstruction : Prop :=
  (∀ (s : State) (ts : List Turn) (i : Instr), s.turns = .engine :: ts → s.busy = true → s.pend ≠ 0x0#4 →
    decodeCode s.pend = i → step s = exec i (s.withTurns ts)) ∧
  (∀ (s : State) (i : Instr), s.turns = [] → s.busy = true → s.pend ≠ 0x0#4 → decodeCode s.pend = i →
    step s = exec i s) ∧
  (∀ (s : State) (k : Nat) (v : Word) (i : Instr) (ls : List Line) (ts : List Turn),
    Offers s k (.access (.write 0x000 4 v)) ls ts → decode (bytesOfWord v) = .ok (i, []) →
    (i = .nop → step s = afterNext (exec i (s.took k ls ts)) (State.observe k .ack)) ∧
    (i ≠ .nop → s.busy = false → ∃ t, step s = .next t ∧ t.busy = true ∧ t.pend = i.code ∧ decodeCode t.pend = i))

/-- `withFetchWord` puts a table row's instruction where the very next step performs it, and changes the block by
nothing but the command's acceptance (R111; log entry 8). -/
def Obligations.FetchWordIsPerformedNext : Prop :=
  ∀ (s : State) (nbits w : Nat) (i : Instr), decodeTableWord nbits w = some i →
    (i ≠ .nop → step (s.withFetchWord nbits w) =
      exec i { s with pend := i.code, busy := true, done := false, err := 0 }) ∧
    (i = .nop → ∃ t, step (s.withFetchWord nbits w) = .next t ∧ SameBlock s t)

/-- R110: the ENGINE step is enabled exactly when BUSY = 1; it performs the pending command and ends with BUSY = 0,
DONE = 1 and PEND = 0. When BUSY = 0 the ENGINE's turn changes nothing. -/
def Obligations.EngineStepIsEnabledExactlyWhenBusy : Prop :=
  (∀ s : State, EngineIsNext s → s.pend ≠ 0x0#4 → ∃ t, step s = .next t ∧
    exec (decodeCode s.pend) (s.withTurns s.turns.tail) = .next t ∧ t.busy = false ∧ t.done = true ∧
    t.pend = 0) ∧
  (∀ s : State, s.busy = false → engineTurn s = .next s) ∧
  (∀ s t : State, step s = .next t → s.busy = true → t.busy = false → EngineIsNext s ∨ ResetIsNext s)

/-- R32: the writers of the STATUS flags, row by row of the table. -/
def Obligations.StatusFlagWriters : Prop :=
  (∀ s t : State, ResetIsNext s → step s = .next t →
    t.busy = false ∧ t.done = false ∧ t.ovr = false ∧ t.err = 0) ∧
  (∀ (s t : State) (k : Nat) (tr : Transaction) (ls : List Line) (ts : List Turn),
    Offers s k (.access tr) ls ts → step s = .next t →
    (AcceptsCommand s tr → t.busy = true ∧ t.done = false ∧ t.ovr = s.ovr ∧ t.err = 0) ∧
    (IsDropped s tr → t.busy = s.busy ∧ t.done = s.done ∧ t.ovr = true ∧ t.err = s.err) ∧
    (¬ AcceptsCommand s tr → ¬ IsDropped s tr →
      t.busy = s.busy ∧ t.done = s.done ∧ t.ovr = s.ovr ∧ t.err = s.err)) ∧
  (∀ s t : State, EngineIsNext s → step s = .next t →
    t.busy = false ∧ t.done = true ∧
    (s.pend = 0x1#4 ∨ s.pend = 0x2#4 →
      t.ovr = s.ovr ∧ t.err = if s.len.toNat ≤ s.mMax.val then 0 else 1) ∧
    (s.pend = 0x3#4 → t.ovr = false ∧ t.err = 0) ∧
    (4 ≤ s.pend.toNat → t.ovr = s.ovr ∧ t.err = 2)) ∧
  (∀ (s t : State) (k : Nat) (off : Offset) (mask val : Word) (ls : List Line) (ts : List Turn),
    Offers s k (.poll off mask val) ls ts → step s = .next t → SameFlags s t)

/-- R33: every field of the block's state after reset, at every M_MAX, and what the registers then show. -/
def Obligations.ResetState : Prop :=
  (∀ m, (State.resetAt m).len = 0 ∧ (State.resetAt m).pay = 0 ∧ (State.resetAt m).cw = 0 ∧
    (State.resetAt m).resN = 0 ∧ (State.resetAt m).resR = 0 ∧ (State.resetAt m).busy = false ∧
    (State.resetAt m).done = false ∧ (State.resetAt m).ovr = false ∧ (State.resetAt m).err = 0 ∧
    (State.resetAt m).pend = 0 ∧
    ∀ off : Offset, off.toNat % 4 = 0 → off ≠ 0x010 → busReadData off (State.resetAt m) = 0) ∧
  busReadData 0x010 State.reset = 0x17FFB7F4

/-- R160: the reset input leaves the block in the reset state, whatever it was doing: a pending command is abandoned, and
no event but an acceptance enables an ENGINE step again; ID is unchanged. The hosts are outside the block and stay (log
entry 9). -/
def Obligations.ResetAbandonsThePendingCommand : Prop :=
  (∀ (s : State) (ts : List Turn), s.turns = .reset :: ts → ∃ t, step s = .next t ∧
    SameBlock (State.resetAt s.mMax) t ∧ t.turns = ts ∧ t.hosts = s.hosts ∧ t.seen = s.seen ∧ t.draws = s.draws ∧
    busReadData 0x010 t = busReadData 0x010 s) ∧
  (∀ s t : State, step s = .next t → s.busy = false → t.busy = true →
    ∃ k tr ls ts, Offers s k (.access tr) ls ts ∧ AcceptsCommand s tr)

/-- R30: PEND is not visible to the host; PEND = 0 exactly when BUSY = 0 is kept by every step; and while the command is
pending PEND holds the CMD that acceptance stored, which the ENGINE step reads. -/
def Obligations.PendFollowsBusy : Prop :=
  (∀ (s : State) (v : Word), v.toNat % 16 ≠ 0 → s.busy = false →
    ∃ t, ctrlWrite v s = .next t ∧ t.pend.toNat = v.toNat % 16) ∧
  (∀ s : State, s.busy = true → s.pend ≠ 0x0#4 → engineTurn s = exec (decodeCode s.pend) s) ∧
  (∀ (s : State) (c : Code) (off : Offset), busReadData off { s with pend := c } = busReadData off s) ∧
  (∀ s t : State, (s.busy = false ↔ s.pend = 0x0#4) → step s = .next t → (t.busy = false ↔ t.pend = 0x0#4)) ∧
  (∀ s t : State, step s = .next t → s.busy = true → t.busy = true → t.pend = s.pend) ∧
  (State.reset.busy = false ∧ State.reset.pend = 0#4)

/-- R118: one event at a time changes the block: a change is the reset input, the ENGINE's step, or a host's write; an
idle block to which nothing is offered does not change, and neither does one whose host's program has ended. -/
def Obligations.OnlyTheThreeEventsChangeTheBlock : Prop :=
  (∀ s t : State, step s = .next t → ¬ SameBlock s t →
    ResetIsNext s ∨ EngineIsNext s ∨ ∃ k off v ls ts, Offers s k (.access (.write off 4 v)) ls ts) ∧
  (∀ s : State, s.busy = false → s.turns = [] → step s = .next s) ∧
  (∀ (s : State) (k : Nat) (ts : List Turn), s.turns = .host k :: ts → (s.hosts[k]? = none ∨ s.hosts[k]? = some []) →
    step s = .next (s.withTurns ts))

/-- R50: as long as the ENGINE step has not been taken and no reset comes, however many host events there are, LEN,
PAYLOAD, PEND, RESULT and CODEWORD stay as they were at acceptance, so the ENGINE step reads the accepted operands; and
no command but CLEAR writes LEN or PAYLOAD. -/
def Obligations.PendingOperandsAreStable : Prop :=
  (∀ (n : Nat) (s t : State), s.busy = true → n ≤ s.turns.length →
    (∀ x ∈ s.turns.take n, ∃ k, x = .host k) → Host.Core.run core n s = .next t →
    t.busy = true ∧ t.pend = s.pend ∧ SameData s t ∧ t.mMax = s.mMax ∧ t.turns = s.turns.drop n) ∧
  (∀ (i : Instr) (s t : State), exec i s = .next t → i ≠ .clear → t.len = s.len ∧ t.pay = s.pay)

/-- R110: an accepted command gets its ENGINE step: once a schedule of host events, however long, has run out, the very
next step performs the command that was pending at its start, with the operands it then had, and ends it (weak fairness
in the form of log entry 4). -/
def Obligations.PendingCommandIsPerformed : Prop :=
  ∀ s t : State, s.busy = true → s.pend ≠ 0x0#4 → (∀ x ∈ s.turns, ∃ k, x = .host k) →
    Host.Core.run core s.turns.length s = .next t →
    ∃ u : State, Host.Core.run core (s.turns.length + 1) s = .next u ∧ exec (decodeCode s.pend) t = .next u ∧
      t.len = s.len ∧ t.pay = s.pay ∧ u.busy = false ∧ u.done = true

/-- R49: RESULT and CODEWORD change in no step but an ENGINE step and reset, so what a command left is read, exactly,
until the next accepted command. -/
def Obligations.ResultsHoldUntilTheNextCommand : Prop :=
  (∀ s t : State, step s = .next t → (t.cw ≠ s.cw ∨ t.resN ≠ s.resN ∨ t.resR ≠ s.resR) →
    ResetIsNext s ∨ (EngineIsNext s ∧ (s.pend = 0x1#4 ∨ s.pend = 0x2#4 ∨ s.pend = 0x3#4))) ∧
  (∀ s t : State, step s = .next t → s.busy = false → t.busy = false → ¬ ResetIsNext s →
    busReadData 0x00C t = busReadData 0x00C s ∧
    ∀ w < 64, busReadData (BitVec.ofNat 10 (0x200 + 4 * w)) t = busReadData (BitVec.ofNat 10 (0x200 + 4 * w)) s)

/-- R166: PLAN, and a command that fails, leave CODEWORD as it was; RESULT is left by a command that
fails. -/
def Obligations.StaleResultsAreKept : Prop :=
  ∀ (i : Instr) (s t : State), exec i s = .next t →
    (i = .plan → t.cw = s.cw) ∧ (t.err ≠ 0 → i ≠ .nop → SameData s t ∧ t.ovr = s.ovr)

/-- The block's invariant holds after reset, at every M_MAX (R33, R30, R24, R26, R28, R29). -/
def Obligations.ResetMeetsTheInvariant : Prop :=
  ∀ m, (State.resetAt m).Inv ∧ (State.resetAt m).EvenGroups

/-- Every step keeps the block's invariant: BUSY and PEND agree, DONE and ERR agree with BUSY, ERR is 0, 1 or 2, no bit
stands in a slot that does not exist, and RESULT holds the counts of one accepted length. -/
def Obligations.StepKeepsTheInvariant : Prop := ∀ s t : State, s.Inv → step s = .next t → t.Inv

/-- Every step keeps CODEWORD a word with even parity in every group, whichever commands, writes and resets come (R98,
R101, R114, R160). -/
def Obligations.StepKeepsEvenGroups : Prop := ∀ s t : State, s.EvenGroups → step s = .next t → t.EvenGroups

/-- No step from a state of the invariant stops but on a bus error, and it stops only at an undefined access (R42, R64:
no encoding traps; R123). What the fault carries is the model's form (log entries 3 and 6). -/
def Obligations.OnlyUndefinedAccessesStop : Prop :=
  ∀ s : State, s.Inv → (∃ t, step s = .next t) ∨
    ∃ k l ls ts f, Offers s k l ls ts ∧ step s = .fault f ∧
      ((∃ off size, l = .access (.read off size) ∧ ¬ (size = 4 ∧ off.toNat % 4 = 0) ∧
          f = .busError (.read off size) (some (Config.draw32 s.draws))) ∨
       (∃ off size v, l = .access (.write off size v) ∧ ¬ (size = 4 ∧ off.toNat % 4 = 0) ∧
          f = .busError (.write off size v) none) ∨
       (∃ off mask val, l = .poll off mask val ∧ off.toNat % 4 ≠ 0 ∧
          f = .busError (.read off 4) (some (Config.draw32 s.draws))))

/-- Every run from reset, of any host programs under any schedule and at any M_MAX, stops on nothing but a bus error,
and every state it reaches meets the invariant and has even parity groups in CODEWORD. -/
def Obligations.RunsFromResetAreSafe : Prop :=
  ∀ (m : Fin (Config.mMaxBound + 1)) (programs : List (List Line)) (schedule : List Turn) (n : Nat),
    (∃ t : State, Host.Core.run core n { State.resetAt m with hosts := programs, turns := schedule } = .next t ∧
      t.Inv ∧ t.EvenGroups) ∨
    (∃ (tr : Transaction) (d : Option Word),
      Host.Core.run core n { State.resetAt m with hosts := programs, turns := schedule } = .fault (.busError tr d))

/-- R68, R122: WAIT stays the host's next line while BUSY = 1 and ends at its first read after the ENGINE step; it
changes nothing of the block. -/
def Obligations.WaitEndsAfterTheEngineStep : Prop :=
  (∀ (s : State) (k : Nat) (ls : List Line) (ts : List Turn), Offers s k waitLine ls ts → s.busy = true →
    ∃ t, step s = .next t ∧ t.hosts = s.hosts ∧ SameBlock s t) ∧
  (∀ (s : State) (k : Nat) (ls : List Line) (ts : List Turn), Offers s k waitLine ls ts → s.busy = false →
    ∃ t, step s = .next t ∧ t.hosts = s.hosts.set k ls ∧ SameBlock s t) ∧
  (∀ (s : State) (k : Nat) (ls : List Line) (ts : List Turn), s.busy = true → s.pend ≠ 0x0#4 →
    s.hosts[k]? = some (waitLine :: ls) → s.turns = .host k :: .engine :: .host k :: ts →
    ∃ t : State, Host.Core.run core 3 s = .next t ∧ t.hosts = s.hosts.set k ls ∧ t.turns = ts ∧ t.busy = false ∧
      t.done = true)

/-- R162, steps 4 to 7: from any idle state with OVR = 0, the host program that writes the payload and LEN and runs
ENCODE, polling any number of times before the ENGINE's step, ends with ERR = 0, OVR = 0, RESULT the counts, and the
CODEWORD window showing the codeword of the payload, position i at bit (i-1) mod 32 of word (i-1)/32. -/
def Obligations.EncodeProcedureYieldsTheCodeword : Prop :=
  ∀ (p : List Bool) (polls : Nat) (s : State), p.length ≤ s.mMax.val → s.busy = false → s.ovr = false →
    s.hosts[0]? = some (encodeProgram p) →
    s.turns = List.replicate (payloadWords p.length + 2 + polls) (.host 0) ++ [.engine, .host 0] →
    ∃ t : State, Host.Core.run core (payloadWords p.length + 2 + polls + 2) s = .next t ∧
      t.hosts[0]? = some [] ∧ t.turns = [] ∧ busReadData 0x004 t = 0x00000002 ∧
      (busReadData 0x00C t).toNat = 65536 * plan p.length + codewordLength p.length ∧
      ∀ i, 1 ≤ i → i ≤ codewordLength p.length →
        (busReadData (BitVec.ofNat 10 (0x200 + 4 * ((i - 1) / 32))) t).getLsbD ((i - 1) % 32) =
          (hammingEncode p).getD (i - 1) false
end

