-- ==== Sys2Proof/Laws/Buffer.lean ====
section
/-!
SUPPORT. The bits of the two buffers: what a mask, a word of a buffer, a written buffer and a stored codeword hold at
each slot.
-/

namespace Sys2Proof.Machine

/-- A mask of the slots below `k` holds exactly those. -/
@[simp] theorem getLsbD_slotsBelow (k i : Nat) : (slotsBelow k).getLsbD i = (decide (i < 2048) && decide (i < k)) := by
  simp [slotsBelow, BitVec.getLsbD_ofNat, Nat.testBit_two_pow_sub_one]

/-- Word `w` shows slot 32w + b at bit b, if that slot exists (R28, R29). -/
theorem getLsbD_bufferWord (k w : Nat) (buf : Buffer) (b : Nat) :
    (bufferWord k w buf).getLsbD b =
      (decide (b < 32) && buf.getLsbD (32 * w + b) && decide (32 * w + b < k)) := by
  unfold bufferWord
  rw [BitVec.getLsbD_setWidth, BitVec.getLsbD_ushiftRight, BitVec.getLsbD_and, getLsbD_slotsBelow]
  by_cases h : 32 * w + b < 2048
  · rw [decide_eq_true h, Bool.true_and, Bool.and_assoc]
  · rw [BitVec.getLsbD_of_ge buf (32 * w + b) (by omega)]; simp

/-- The bits of a word placed in a buffer, those at or beyond `k` left out. -/
theorem getLsbD_wordSlots (k w : Nat) (v : Word) (i : Nat) :
    (wordSlots k w v).getLsbD i =
      (decide (i < 2048) && decide (i < k) && decide (32 * w ≤ i) && v.getLsbD (i - 32 * w)) := by
  unfold wordSlots
  rw [BitVec.getLsbD_and, BitVec.getLsbD_shiftLeft, BitVec.getLsbD_setWidth, getLsbD_slotsBelow]
  by_cases h1 : i < 2048 <;> by_cases h2 : i < k <;> by_cases h3 : i < 32 * w
  all_goals first
    | simp [h1, h2, h3, Nat.not_le.mpr h3]
    | simp [h1, h2, h3, Nat.not_lt.mp h3, show i - 32 * w < 2048 by omega]
    | simp [h1, h2, h3]

/-- Writing word `w` stores v's bits in the slots of that word that exist, and leaves every other slot alone (R28). -/
theorem getLsbD_setBufferWord (k w : Nat) (v : Word) (buf : Buffer) (i : Nat) (hi : i < 2048) :
    (setBufferWord k w v buf).getLsbD i =
      if 32 * w ≤ i ∧ i < 32 * w + 32 ∧ i < k then v.getLsbD (i - 32 * w) else buf.getLsbD i := by
  unfold setBufferWord
  rw [BitVec.getLsbD_or, BitVec.getLsbD_and, BitVec.getLsbD_not, getLsbD_wordSlots, getLsbD_wordSlots,
    BitVec.getLsbD_allOnes]
  by_cases h2 : i < k <;> by_cases h3 : 32 * w ≤ i <;> by_cases h4 : i < 32 * w + 32
  · have h5 : i - 32 * w < 32 := by omega
    simp [hi, h2, h3, h4, h5]
  · have h5 : ¬ i - 32 * w < 32 := by omega
    simp [hi, h2, h3, h4, h5, BitVec.getLsbD_of_ge v (i - 32 * w) (by omega)]
  all_goals simp [hi, h2, h3, h4]

/-- A stored codeword holds position b + 1 at slot b, and 0 from n on (R101). -/
theorem getLsbD_codewordBuffer (c : List Bool) (b : Nat) :
    (codewordBuffer c).getLsbD b = (decide (b < 2048) && c.getD b false) := by
  simp [codewordBuffer, BitVec.getLsbD_setWidth, BitVec.getLsbD_ofBoolListLE]

/-- A buffer has no bit at or beyond slot `k` exactly when masking those slots changes nothing. -/
theorem and_slotsBelow_eq_iff (buf : Buffer) (k : Nat) :
    buf &&& slotsBelow k = buf ↔ ∀ i, k ≤ i → buf.getLsbD i = false := by
  constructor
  · intro h i hi
    rw [← h, BitVec.getLsbD_and, getLsbD_slotsBelow]
    simp [show ¬ i < k by omega]
  · intro h
    apply BitVec.eq_of_getLsbD_eq
    intro i hi
    rw [BitVec.getLsbD_and, getLsbD_slotsBelow]
    by_cases hk : i < k
    · simp [hi, hk]
    · simp [hk, h i (by omega)]

end Sys2Proof.Machine
end

