-- ==== Sys2Proof/Laws/Decode.lean ====
section
/-!
SUPPORT. Lemmas about command words and their bytes.
-/

namespace Sys2Proof

@[simp] theorem wordOfBytes_bytesOfWord (w : Word) :
    wordOfBytes (w.extractLsb' 0 8) (w.extractLsb' 8 8) (w.extractLsb' 16 8) (w.extractLsb' 24 8) = w := by
  apply BitVec.eq_of_getLsbD_eq
  intro i hi
  have h : ∀ b3 b2 b1 b0 : Byte, (wordOfBytes b0 b1 b2 b3).getLsbD i =
      if i < 8 then b0.getLsbD i else if i < 16 then b1.getLsbD (i - 8)
      else if i < 24 then b2.getLsbD (i - 16) else b3.getLsbD (i - 24) := by
    intro b3 b2 b1 b0
    change ((b3 ++ b2 ++ b1 ++ b0 : BitVec (8 + 8 + 8 + 8))).getLsbD i = _
    simp only [BitVec.getLsbD_append, Nat.sub_sub]
    repeat' split
    all_goals first | rfl | omega
  rw [h]
  repeat' split
  all_goals simp only [BitVec.getLsbD_extractLsb']
  all_goals rw [decide_eq_true (by omega), Bool.true_and]; congr 1; omega

/-- A word's four bytes, and whatever follows them, decode to the word's command. -/
theorem decode_bytesOfWord (w : Word) (rest : List Byte) :
    decode (bytesOfWord w ++ rest) = .ok (decodeCmd w, rest) := by
  simp [bytesOfWord, decode]

/-- What the decoder reads from a table row's word is the command of that word. -/
theorem decodeTableWord_eq (nbits w : Nat) :
    decodeTableWord nbits w = some (decodeCmd (BitVec.ofNat 32 (w % 2 ^ nbits))) := by
  have h := decode_bytesOfWord (BitVec.ofNat 32 (w % 2 ^ nbits)) []
  rw [List.append_nil] at h
  simp [decodeTableWord, h]

/-- The code of a word made of a code alone is that code. -/
@[simp] theorem cmdField_setWidth (c : Code) : cmdField (c.setWidth 32) = c := by
  revert c; decide

/-- A command word decodes as its code does: no other bit is looked at (R60). -/
theorem decodeCmd_eq_decodeCode (w : Word) : decodeCmd w = decodeCode (cmdField w) := by
  simp [decodeCode, decodeCmd]

/-- A word is a NOP exactly when its code is 0 (R63). -/
theorem decodeCode_eq_nop_iff (c : Code) : decodeCode c = .nop ↔ c = 0#4 := by
  revert c; decide

/-- Every decoded instruction is well formed. -/
theorem decodeCode_wellFormed (c : Code) : (decodeCode c).wellFormed = true := by
  revert c; decide

/-- The code of a decoded instruction is the code it was decoded from. -/
@[simp] theorem code_decodeCode (c : Code) : (decodeCode c).code = c := by
  revert c; decide

end Sys2Proof
end

