-- ==== Sys2Proof/Laws/State.lean ====
section
/-!
SUPPORT. One lemma per field for every named update of the state, so that no later proof unfolds a record update.
-/

namespace Sys2Proof.Machine

section
variable (s : State) (c : Code)

@[simp] theorem State.accept_len : (s.accept c).len = s.len := rfl
@[simp] theorem State.accept_pay : (s.accept c).pay = s.pay := rfl
@[simp] theorem State.accept_cw : (s.accept c).cw = s.cw := rfl
@[simp] theorem State.accept_resN : (s.accept c).resN = s.resN := rfl
@[simp] theorem State.accept_resR : (s.accept c).resR = s.resR := rfl
@[simp] theorem State.accept_busy : (s.accept c).busy = true := rfl
@[simp] theorem State.accept_done : (s.accept c).done = false := rfl
@[simp] theorem State.accept_ovr : (s.accept c).ovr = s.ovr := rfl
@[simp] theorem State.accept_err : (s.accept c).err = 0#4 := rfl
@[simp] theorem State.accept_pend : (s.accept c).pend = c := rfl
@[simp] theorem State.accept_mMax : (s.accept c).mMax = s.mMax := rfl
@[simp] theorem State.accept_hosts : (s.accept c).hosts = s.hosts := rfl
@[simp] theorem State.accept_turns : (s.accept c).turns = s.turns := rfl
@[simp] theorem State.accept_seen : (s.accept c).seen = s.seen := rfl
@[simp] theorem State.accept_draws : (s.accept c).draws = s.draws := rfl

end

section
variable (s : State)

@[simp] theorem State.dropWrite_len : (s.dropWrite).len = s.len := rfl
@[simp] theorem State.dropWrite_pay : (s.dropWrite).pay = s.pay := rfl
@[simp] theorem State.dropWrite_cw : (s.dropWrite).cw = s.cw := rfl
@[simp] theorem State.dropWrite_resN : (s.dropWrite).resN = s.resN := rfl
@[simp] theorem State.dropWrite_resR : (s.dropWrite).resR = s.resR := rfl
@[simp] theorem State.dropWrite_busy : (s.dropWrite).busy = s.busy := rfl
@[simp] theorem State.dropWrite_done : (s.dropWrite).done = s.done := rfl
@[simp] theorem State.dropWrite_ovr : (s.dropWrite).ovr = true := rfl
@[simp] theorem State.dropWrite_err : (s.dropWrite).err = s.err := rfl
@[simp] theorem State.dropWrite_pend : (s.dropWrite).pend = s.pend := rfl
@[simp] theorem State.dropWrite_mMax : (s.dropWrite).mMax = s.mMax := rfl
@[simp] theorem State.dropWrite_hosts : (s.dropWrite).hosts = s.hosts := rfl
@[simp] theorem State.dropWrite_turns : (s.dropWrite).turns = s.turns := rfl
@[simp] theorem State.dropWrite_seen : (s.dropWrite).seen = s.seen := rfl
@[simp] theorem State.dropWrite_draws : (s.dropWrite).draws = s.draws := rfl

end

section
variable (s : State) (e : BitVec 4)

@[simp] theorem State.complete_len : (s.complete e).len = s.len := rfl
@[simp] theorem State.complete_pay : (s.complete e).pay = s.pay := rfl
@[simp] theorem State.complete_cw : (s.complete e).cw = s.cw := rfl
@[simp] theorem State.complete_resN : (s.complete e).resN = s.resN := rfl
@[simp] theorem State.complete_resR : (s.complete e).resR = s.resR := rfl
@[simp] theorem State.complete_busy : (s.complete e).busy = false := rfl
@[simp] theorem State.complete_done : (s.complete e).done = true := rfl
@[simp] theorem State.complete_ovr : (s.complete e).ovr = s.ovr := rfl
@[simp] theorem State.complete_err : (s.complete e).err = e := rfl
@[simp] theorem State.complete_pend : (s.complete e).pend = 0#4 := rfl
@[simp] theorem State.complete_mMax : (s.complete e).mMax = s.mMax := rfl
@[simp] theorem State.complete_hosts : (s.complete e).hosts = s.hosts := rfl
@[simp] theorem State.complete_turns : (s.complete e).turns = s.turns := rfl
@[simp] theorem State.complete_seen : (s.complete e).seen = s.seen := rfl
@[simp] theorem State.complete_draws : (s.complete e).draws = s.draws := rfl

end

section
variable (s : State) (v : Word)

@[simp] theorem State.writeLen_len : (s.writeLen v).len = v.setWidth 12 := rfl
@[simp] theorem State.writeLen_pay : (s.writeLen v).pay = s.pay := rfl
@[simp] theorem State.writeLen_cw : (s.writeLen v).cw = s.cw := rfl
@[simp] theorem State.writeLen_resN : (s.writeLen v).resN = s.resN := rfl
@[simp] theorem State.writeLen_resR : (s.writeLen v).resR = s.resR := rfl
@[simp] theorem State.writeLen_busy : (s.writeLen v).busy = s.busy := rfl
@[simp] theorem State.writeLen_done : (s.writeLen v).done = s.done := rfl
@[simp] theorem State.writeLen_ovr : (s.writeLen v).ovr = s.ovr := rfl
@[simp] theorem State.writeLen_err : (s.writeLen v).err = s.err := rfl
@[simp] theorem State.writeLen_pend : (s.writeLen v).pend = s.pend := rfl
@[simp] theorem State.writeLen_mMax : (s.writeLen v).mMax = s.mMax := rfl
@[simp] theorem State.writeLen_hosts : (s.writeLen v).hosts = s.hosts := rfl
@[simp] theorem State.writeLen_turns : (s.writeLen v).turns = s.turns := rfl
@[simp] theorem State.writeLen_seen : (s.writeLen v).seen = s.seen := rfl
@[simp] theorem State.writeLen_draws : (s.writeLen v).draws = s.draws := rfl

end

section
variable (s : State) (w : Nat) (v : Word)

@[simp] theorem State.writePayload_len : (s.writePayload w v).len = s.len := rfl
@[simp] theorem State.writePayload_pay : (s.writePayload w v).pay = setBufferWord s.mMax.val w v s.pay := rfl
@[simp] theorem State.writePayload_cw : (s.writePayload w v).cw = s.cw := rfl
@[simp] theorem State.writePayload_resN : (s.writePayload w v).resN = s.resN := rfl
@[simp] theorem State.writePayload_resR : (s.writePayload w v).resR = s.resR := rfl
@[simp] theorem State.writePayload_busy : (s.writePayload w v).busy = s.busy := rfl
@[simp] theorem State.writePayload_done : (s.writePayload w v).done = s.done := rfl
@[simp] theorem State.writePayload_ovr : (s.writePayload w v).ovr = s.ovr := rfl
@[simp] theorem State.writePayload_err : (s.writePayload w v).err = s.err := rfl
@[simp] theorem State.writePayload_pend : (s.writePayload w v).pend = s.pend := rfl
@[simp] theorem State.writePayload_mMax : (s.writePayload w v).mMax = s.mMax := rfl
@[simp] theorem State.writePayload_hosts : (s.writePayload w v).hosts = s.hosts := rfl
@[simp] theorem State.writePayload_turns : (s.writePayload w v).turns = s.turns := rfl
@[simp] theorem State.writePayload_seen : (s.writePayload w v).seen = s.seen := rfl
@[simp] theorem State.writePayload_draws : (s.writePayload w v).draws = s.draws := rfl

end

section
variable (s : State) (m : Nat)

@[simp] theorem State.writeResult_len : (s.writeResult m).len = s.len := rfl
@[simp] theorem State.writeResult_pay : (s.writeResult m).pay = s.pay := rfl
@[simp] theorem State.writeResult_cw : (s.writeResult m).cw = s.cw := rfl
@[simp] theorem State.writeResult_resN : (s.writeResult m).resN = BitVec.ofNat 12 (codewordLength m) := rfl
@[simp] theorem State.writeResult_resR : (s.writeResult m).resR = BitVec.ofNat 4 (plan m) := rfl
@[simp] theorem State.writeResult_busy : (s.writeResult m).busy = s.busy := rfl
@[simp] theorem State.writeResult_done : (s.writeResult m).done = s.done := rfl
@[simp] theorem State.writeResult_ovr : (s.writeResult m).ovr = s.ovr := rfl
@[simp] theorem State.writeResult_err : (s.writeResult m).err = s.err := rfl
@[simp] theorem State.writeResult_pend : (s.writeResult m).pend = s.pend := rfl
@[simp] theorem State.writeResult_mMax : (s.writeResult m).mMax = s.mMax := rfl
@[simp] theorem State.writeResult_hosts : (s.writeResult m).hosts = s.hosts := rfl
@[simp] theorem State.writeResult_turns : (s.writeResult m).turns = s.turns := rfl
@[simp] theorem State.writeResult_seen : (s.writeResult m).seen = s.seen := rfl
@[simp] theorem State.writeResult_draws : (s.writeResult m).draws = s.draws := rfl

end

section
variable (s : State) (c : List Bool)

@[simp] theorem State.writeCodeword_len : (s.writeCodeword c).len = s.len := rfl
@[simp] theorem State.writeCodeword_pay : (s.writeCodeword c).pay = s.pay := rfl
@[simp] theorem State.writeCodeword_cw : (s.writeCodeword c).cw = codewordBuffer c := rfl
@[simp] theorem State.writeCodeword_resN : (s.writeCodeword c).resN = s.resN := rfl
@[simp] theorem State.writeCodeword_resR : (s.writeCodeword c).resR = s.resR := rfl
@[simp] theorem State.writeCodeword_busy : (s.writeCodeword c).busy = s.busy := rfl
@[simp] theorem State.writeCodeword_done : (s.writeCodeword c).done = s.done := rfl
@[simp] theorem State.writeCodeword_ovr : (s.writeCodeword c).ovr = s.ovr := rfl
@[simp] theorem State.writeCodeword_err : (s.writeCodeword c).err = s.err := rfl
@[simp] theorem State.writeCodeword_pend : (s.writeCodeword c).pend = s.pend := rfl
@[simp] theorem State.writeCodeword_mMax : (s.writeCodeword c).mMax = s.mMax := rfl
@[simp] theorem State.writeCodeword_hosts : (s.writeCodeword c).hosts = s.hosts := rfl
@[simp] theorem State.writeCodeword_turns : (s.writeCodeword c).turns = s.turns := rfl
@[simp] theorem State.writeCodeword_seen : (s.writeCodeword c).seen = s.seen := rfl
@[simp] theorem State.writeCodeword_draws : (s.writeCodeword c).draws = s.draws := rfl

end

section
variable (s : State)

@[simp] theorem State.clearData_len : (s.clearData).len = 0#12 := rfl
@[simp] theorem State.clearData_pay : (s.clearData).pay = 0#2048 := rfl
@[simp] theorem State.clearData_cw : (s.clearData).cw = 0#2048 := rfl
@[simp] theorem State.clearData_resN : (s.clearData).resN = 0#12 := rfl
@[simp] theorem State.clearData_resR : (s.clearData).resR = 0#4 := rfl
@[simp] theorem State.clearData_busy : (s.clearData).busy = s.busy := rfl
@[simp] theorem State.clearData_done : (s.clearData).done = s.done := rfl
@[simp] theorem State.clearData_ovr : (s.clearData).ovr = false := rfl
@[simp] theorem State.clearData_err : (s.clearData).err = 0#4 := rfl
@[simp] theorem State.clearData_pend : (s.clearData).pend = s.pend := rfl
@[simp] theorem State.clearData_mMax : (s.clearData).mMax = s.mMax := rfl
@[simp] theorem State.clearData_hosts : (s.clearData).hosts = s.hosts := rfl
@[simp] theorem State.clearData_turns : (s.clearData).turns = s.turns := rfl
@[simp] theorem State.clearData_seen : (s.clearData).seen = s.seen := rfl
@[simp] theorem State.clearData_draws : (s.clearData).draws = s.draws := rfl

end

section
variable (s : State)

@[simp] theorem State.resetBlock_len : (s.resetBlock).len = 0#12 := rfl
@[simp] theorem State.resetBlock_pay : (s.resetBlock).pay = 0#2048 := rfl
@[simp] theorem State.resetBlock_cw : (s.resetBlock).cw = 0#2048 := rfl
@[simp] theorem State.resetBlock_resN : (s.resetBlock).resN = 0#12 := rfl
@[simp] theorem State.resetBlock_resR : (s.resetBlock).resR = 0#4 := rfl
@[simp] theorem State.resetBlock_busy : (s.resetBlock).busy = false := rfl
@[simp] theorem State.resetBlock_done : (s.resetBlock).done = false := rfl
@[simp] theorem State.resetBlock_ovr : (s.resetBlock).ovr = false := rfl
@[simp] theorem State.resetBlock_err : (s.resetBlock).err = 0#4 := rfl
@[simp] theorem State.resetBlock_pend : (s.resetBlock).pend = 0#4 := rfl
@[simp] theorem State.resetBlock_mMax : (s.resetBlock).mMax = s.mMax := rfl
@[simp] theorem State.resetBlock_hosts : (s.resetBlock).hosts = s.hosts := rfl
@[simp] theorem State.resetBlock_turns : (s.resetBlock).turns = s.turns := rfl
@[simp] theorem State.resetBlock_seen : (s.resetBlock).seen = s.seen := rfl
@[simp] theorem State.resetBlock_draws : (s.resetBlock).draws = s.draws := rfl

end

section
variable (s : State)

@[simp] theorem State.drawn_len : (s.drawn).len = s.len := rfl
@[simp] theorem State.drawn_pay : (s.drawn).pay = s.pay := rfl
@[simp] theorem State.drawn_cw : (s.drawn).cw = s.cw := rfl
@[simp] theorem State.drawn_resN : (s.drawn).resN = s.resN := rfl
@[simp] theorem State.drawn_resR : (s.drawn).resR = s.resR := rfl
@[simp] theorem State.drawn_busy : (s.drawn).busy = s.busy := rfl
@[simp] theorem State.drawn_done : (s.drawn).done = s.done := rfl
@[simp] theorem State.drawn_ovr : (s.drawn).ovr = s.ovr := rfl
@[simp] theorem State.drawn_err : (s.drawn).err = s.err := rfl
@[simp] theorem State.drawn_pend : (s.drawn).pend = s.pend := rfl
@[simp] theorem State.drawn_mMax : (s.drawn).mMax = s.mMax := rfl
@[simp] theorem State.drawn_hosts : (s.drawn).hosts = s.hosts := rfl
@[simp] theorem State.drawn_turns : (s.drawn).turns = s.turns := rfl
@[simp] theorem State.drawn_seen : (s.drawn).seen = s.seen := rfl
@[simp] theorem State.drawn_draws : (s.drawn).draws = s.draws + 1 := rfl

end

section
variable (s : State) (k : Nat) (r : Response)

@[simp] theorem State.observe_len : (s.observe k r).len = s.len := rfl
@[simp] theorem State.observe_pay : (s.observe k r).pay = s.pay := rfl
@[simp] theorem State.observe_cw : (s.observe k r).cw = s.cw := rfl
@[simp] theorem State.observe_resN : (s.observe k r).resN = s.resN := rfl
@[simp] theorem State.observe_resR : (s.observe k r).resR = s.resR := rfl
@[simp] theorem State.observe_busy : (s.observe k r).busy = s.busy := rfl
@[simp] theorem State.observe_done : (s.observe k r).done = s.done := rfl
@[simp] theorem State.observe_ovr : (s.observe k r).ovr = s.ovr := rfl
@[simp] theorem State.observe_err : (s.observe k r).err = s.err := rfl
@[simp] theorem State.observe_pend : (s.observe k r).pend = s.pend := rfl
@[simp] theorem State.observe_mMax : (s.observe k r).mMax = s.mMax := rfl
@[simp] theorem State.observe_hosts : (s.observe k r).hosts = s.hosts := rfl
@[simp] theorem State.observe_turns : (s.observe k r).turns = s.turns := rfl
@[simp] theorem State.observe_seen : (s.observe k r).seen = (k, r) :: s.seen := rfl
@[simp] theorem State.observe_draws : (s.observe k r).draws = s.draws := rfl

end

section
variable (s : State) (k : Nat) (ls : List Line)

@[simp] theorem State.setProgram_len : (s.setProgram k ls).len = s.len := rfl
@[simp] theorem State.setProgram_pay : (s.setProgram k ls).pay = s.pay := rfl
@[simp] theorem State.setProgram_cw : (s.setProgram k ls).cw = s.cw := rfl
@[simp] theorem State.setProgram_resN : (s.setProgram k ls).resN = s.resN := rfl
@[simp] theorem State.setProgram_resR : (s.setProgram k ls).resR = s.resR := rfl
@[simp] theorem State.setProgram_busy : (s.setProgram k ls).busy = s.busy := rfl
@[simp] theorem State.setProgram_done : (s.setProgram k ls).done = s.done := rfl
@[simp] theorem State.setProgram_ovr : (s.setProgram k ls).ovr = s.ovr := rfl
@[simp] theorem State.setProgram_err : (s.setProgram k ls).err = s.err := rfl
@[simp] theorem State.setProgram_pend : (s.setProgram k ls).pend = s.pend := rfl
@[simp] theorem State.setProgram_mMax : (s.setProgram k ls).mMax = s.mMax := rfl
@[simp] theorem State.setProgram_hosts : (s.setProgram k ls).hosts = s.hosts.set k ls := rfl
@[simp] theorem State.setProgram_turns : (s.setProgram k ls).turns = s.turns := rfl
@[simp] theorem State.setProgram_seen : (s.setProgram k ls).seen = s.seen := rfl
@[simp] theorem State.setProgram_draws : (s.setProgram k ls).draws = s.draws := rfl

end

section
variable (s : State) (ts : List Turn)

@[simp] theorem State.withTurns_len : (s.withTurns ts).len = s.len := rfl
@[simp] theorem State.withTurns_pay : (s.withTurns ts).pay = s.pay := rfl
@[simp] theorem State.withTurns_cw : (s.withTurns ts).cw = s.cw := rfl
@[simp] theorem State.withTurns_resN : (s.withTurns ts).resN = s.resN := rfl
@[simp] theorem State.withTurns_resR : (s.withTurns ts).resR = s.resR := rfl
@[simp] theorem State.withTurns_busy : (s.withTurns ts).busy = s.busy := rfl
@[simp] theorem State.withTurns_done : (s.withTurns ts).done = s.done := rfl
@[simp] theorem State.withTurns_ovr : (s.withTurns ts).ovr = s.ovr := rfl
@[simp] theorem State.withTurns_err : (s.withTurns ts).err = s.err := rfl
@[simp] theorem State.withTurns_pend : (s.withTurns ts).pend = s.pend := rfl
@[simp] theorem State.withTurns_mMax : (s.withTurns ts).mMax = s.mMax := rfl
@[simp] theorem State.withTurns_hosts : (s.withTurns ts).hosts = s.hosts := rfl
@[simp] theorem State.withTurns_turns : (s.withTurns ts).turns = ts := rfl
@[simp] theorem State.withTurns_seen : (s.withTurns ts).seen = s.seen := rfl
@[simp] theorem State.withTurns_draws : (s.withTurns ts).draws = s.draws := rfl

end

section
variable (s : State) (k : Nat) (ls : List Line) (ts : List Turn)

@[simp] theorem State.took_len : (s.took k ls ts).len = s.len := rfl
@[simp] theorem State.took_pay : (s.took k ls ts).pay = s.pay := rfl
@[simp] theorem State.took_cw : (s.took k ls ts).cw = s.cw := rfl
@[simp] theorem State.took_resN : (s.took k ls ts).resN = s.resN := rfl
@[simp] theorem State.took_resR : (s.took k ls ts).resR = s.resR := rfl
@[simp] theorem State.took_busy : (s.took k ls ts).busy = s.busy := rfl
@[simp] theorem State.took_done : (s.took k ls ts).done = s.done := rfl
@[simp] theorem State.took_ovr : (s.took k ls ts).ovr = s.ovr := rfl
@[simp] theorem State.took_err : (s.took k ls ts).err = s.err := rfl
@[simp] theorem State.took_pend : (s.took k ls ts).pend = s.pend := rfl
@[simp] theorem State.took_mMax : (s.took k ls ts).mMax = s.mMax := rfl
@[simp] theorem State.took_hosts : (s.took k ls ts).hosts = s.hosts.set k ls := rfl
@[simp] theorem State.took_turns : (s.took k ls ts).turns = ts := rfl
@[simp] theorem State.took_seen : (s.took k ls ts).seen = s.seen := rfl
@[simp] theorem State.took_draws : (s.took k ls ts).draws = s.draws := rfl

end

section
variable (m : Fin (Config.mMaxBound + 1))

@[simp] theorem State.resetAt_len : (State.resetAt m).len = 0#12 := rfl
@[simp] theorem State.resetAt_pay : (State.resetAt m).pay = 0#2048 := rfl
@[simp] theorem State.resetAt_cw : (State.resetAt m).cw = 0#2048 := rfl
@[simp] theorem State.resetAt_resN : (State.resetAt m).resN = 0#12 := rfl
@[simp] theorem State.resetAt_resR : (State.resetAt m).resR = 0#4 := rfl
@[simp] theorem State.resetAt_busy : (State.resetAt m).busy = false := rfl
@[simp] theorem State.resetAt_done : (State.resetAt m).done = false := rfl
@[simp] theorem State.resetAt_ovr : (State.resetAt m).ovr = false := rfl
@[simp] theorem State.resetAt_err : (State.resetAt m).err = 0#4 := rfl
@[simp] theorem State.resetAt_pend : (State.resetAt m).pend = 0#4 := rfl
@[simp] theorem State.resetAt_mMax : (State.resetAt m).mMax = m := rfl
@[simp] theorem State.resetAt_hosts : (State.resetAt m).hosts = [] := rfl
@[simp] theorem State.resetAt_turns : (State.resetAt m).turns = [] := rfl
@[simp] theorem State.resetAt_seen : (State.resetAt m).seen = [] := rfl
@[simp] theorem State.resetAt_draws : (State.resetAt m).draws = 0 := rfl

end

/-- The capacities are derived from M_MAX alone (R6). -/
theorem State.nMax_congr {s t : State} (h : t.mMax = s.mMax) : t.nMax = s.nMax := by
  simp [State.nMax, State.rMax, h]

theorem State.rMax_congr {s t : State} (h : t.mMax = s.mMax) : t.rMax = s.rMax := by
  simp [State.rMax, h]

end Sys2Proof.Machine
end

