-- ==== Sys2Proof/Laws/Ops.lean ====
section
/-!
SUPPORT. What each shared operation can do, said once: the commands, the write of CTRL, a write of the window and one
transaction.
-/

namespace Sys2Proof.Machine

/-- A length that fits, and one that does not. -/
theorem State.lenFits_iff (s : State) : s.lenFits = true ↔ s.len.toNat ≤ s.mMax.val := by
  simp [State.lenFits]

/-- Whether LEN fits depends on LEN and M_MAX alone. -/
theorem State.lenFits_congr {s t : State} (hl : t.len = s.len) (hm : t.mMax = s.mMax) : t.lenFits = s.lenFits := by
  simp [State.lenFits, hl, hm]

/-- The operand of ENCODE depends on LEN and PAYLOAD alone. -/
theorem payloadBits_congr {s t : State} (hl : t.len = s.len) (hp : t.pay = s.pay) : payloadBits t = payloadBits s := by
  simp [payloadBits, hl, hp]

theorem execPlan_of_fits {s : State} (h : s.lenFits = true) :
    execPlan s = .next ((s.writeResult s.len.toNat).complete errOk) := by
  simp [execPlan, h]

theorem execPlan_of_not_fits {s : State} (h : s.lenFits = false) : execPlan s = .next (s.complete errPlan) := by
  simp [execPlan, h]

theorem execEncode_of_fits {s : State} (h : s.lenFits = true) :
    execEncode s = .next
      (((s.writeCodeword (hammingEncode (payloadBits s))).writeResult s.len.toNat).complete errOk) := by
  simp [execEncode, h]

theorem execEncode_of_not_fits {s : State} (h : s.lenFits = false) :
    execEncode s = .next (s.complete errPlan) := by
  simp [execEncode, h]

/-- What a command can do: nothing (NOP), fail with PLAN_ERR or CMD_ERR, write RESULT, write CODEWORD and RESULT, or
clear. -/
theorem exec_cases {i : Instr} {s t : State} (h : exec i s = .next t) :
    (i = .nop ∧ t = s) ∨
    ((i = .plan ∨ i = .encode) ∧ s.lenFits = false ∧ t = s.complete errPlan) ∨
    (i = .plan ∧ s.lenFits = true ∧ t = (s.writeResult s.len.toNat).complete errOk) ∨
    (i = .encode ∧ s.lenFits = true ∧
      t = ((s.writeCodeword (hammingEncode (payloadBits s))).writeResult s.len.toNat).complete errOk) ∨
    (i = .clear ∧ t = s.clearData.complete errOk) ∨
    ((∃ c, i = .reserved47 c ∨ i = .reserved8F c) ∧ t = s.complete errCmd) := by
  cases i with
  | nop => simp_all [exec, execNop]
  | plan => cases hf : s.lenFits <;> simp_all [exec, execPlan]
  | encode => cases hf : s.lenFits <;> simp_all [exec, execEncode]
  | clear => simp_all [exec, execClear]
  | reserved47 c => simp_all [exec, execReserved47]
  | reserved8F c => simp_all [exec, execReserved8F]

/-- Every command answers a next state. -/
theorem exec_next (i : Instr) (s : State) : ∃ t, exec i s = .next t := by
  cases i with
  | nop => exact ⟨_, rfl⟩
  | plan => cases hf : s.lenFits <;> simp [exec, execPlan, hf]
  | encode => cases hf : s.lenFits <;> simp [exec, execEncode, hf]
  | clear => exact ⟨_, rfl⟩
  | reserved47 c => exact ⟨_, rfl⟩
  | reserved8F c => exact ⟨_, rfl⟩

/-- Every command leaves M_MAX and everything outside the block alone. -/
theorem exec_frame {i : Instr} {s t : State} (h : exec i s = .next t) : t.mMax = s.mMax ∧ SameWorld s t := by
  rcases exec_cases h with ⟨_, rfl⟩ | ⟨_, _, rfl⟩ | ⟨_, _, rfl⟩ | ⟨_, _, rfl⟩ | ⟨_, rfl⟩ | ⟨_, rfl⟩ <;>
    simp [SameWorld]

/-- Every command but NOP ends as R110 says. -/
theorem exec_completes {i : Instr} {s t : State} (hi : i ≠ .nop) (h : exec i s = .next t) :
    t.busy = false ∧ t.done = true ∧ t.pend = 0#4 := by
  rcases exec_cases h with ⟨rfl, _⟩ | ⟨_, _, rfl⟩ | ⟨_, _, rfl⟩ | ⟨_, _, rfl⟩ | ⟨_, rfl⟩ | ⟨_, rfl⟩
  · exact absurd rfl hi
  all_goals simp

/-- What a write of CTRL can do (R111). -/
theorem ctrlWrite_eq (v : Word) (s : State) :
    ctrlWrite v s =
      if cmdField v = 0#4 then .next s
      else if s.busy then .next s.dropWrite else .next (s.accept (cmdField v)) := by
  unfold ctrlWrite issue
  split
  · rename_i h
    rw [decodeCmd_eq_decodeCode, decodeCode_eq_nop_iff] at h
    simp [h, exec, execNop]
  · rename_i h
    rw [decodeCmd_eq_decodeCode, decodeCode_eq_nop_iff] at h
    rw [if_neg h]

/-- What a defined write can do (R117): nothing, set OVR, accept a command, write LEN, or write a PAYLOAD word. -/
theorem busWrite_cases (off : Offset) (v : Word) (s : State) :
    ∃ t, busWrite off v s = .next t ∧
      (t = s ∨ (s.busy = true ∧ t = s.dropWrite) ∨
        (s.busy = false ∧ cmdField v ≠ 0#4 ∧ t = s.accept (cmdField v)) ∨
        (s.busy = false ∧ t = s.writeLen v) ∨ (s.busy = false ∧ ∃ w, t = s.writePayload w v)) := by
  unfold busWrite
  split
  · rw [ctrlWrite_eq]
    by_cases h0 : cmdField v = 0#4
    · exact ⟨s, by simp [h0], .inl rfl⟩
    · cases hb : s.busy
      · exact ⟨_, by simp [h0], .inr (.inr (.inl ⟨rfl, h0, rfl⟩))⟩
      · exact ⟨_, by simp [h0], .inr (.inl ⟨rfl, rfl⟩)⟩
  · cases hb : s.busy
    · exact ⟨_, rfl, .inr (.inr (.inr (.inl ⟨rfl, rfl⟩)))⟩
    · exact ⟨_, rfl, .inr (.inl ⟨rfl, rfl⟩)⟩
  · rename_i w _
    cases hb : s.busy
    · exact ⟨_, rfl, .inr (.inr (.inr (.inr ⟨rfl, w, rfl⟩)))⟩
    · exact ⟨_, rfl, .inr (.inl ⟨rfl, rfl⟩)⟩
  all_goals exact ⟨s, rfl, .inl rfl⟩

/-- A read leaves the block as it was (R45). -/
theorem afterRead_sameBlock (off : Offset) (s : State) : SameBlock s (afterRead off s) := by
  unfold afterRead
  split <;> simp [SameBlock, SameData, SameFlags]

/-- What one transaction can do: a defined read or write goes on, an undefined one is a bus error (R42). -/
theorem busAccess_read (k : Nat) (off : Offset) (size : Nat) (s : State) :
    busAccess k (.read off size) s =
      if accessDefined off size then .next ((afterRead off s).observe k (.data (busReadData off s)))
      else .fault (.busError (.read off size) (some (Config.draw32 s.draws))) := rfl

theorem busAccess_write (k : Nat) (off : Offset) (size : Nat) (v : Word) (s : State) :
    busAccess k (.write off size v) s =
      if accessDefined off size then afterNext (busWrite off v s) (State.observe k .ack)
      else .fault (.busError (.write off size v) none) := rfl

@[simp] theorem afterNext_next (s : State) (f : State → State) : afterNext (.next s) f = .next (f s) := rfl

end Sys2Proof.Machine
end

