-- ==== Sys2Proof/Laws/Bus.lean ====
section
/-!
SUPPORT. The register map offset by offset, and what a read or a write at each kind of register does.
-/

namespace Sys2Proof.Machine

/-- The PAYLOAD words stand at 0x100 + 4w (R41). -/
theorem targetOf_payload {w : Nat} (h : w < 64) : targetOf (BitVec.ofNat 10 (0x100 + 4 * w)) = .payload w := by
  have : ∀ w : Fin 64, targetOf (BitVec.ofNat 10 (0x100 + 4 * w.val)) = .payload w.val := by decide
  exact this ⟨w, h⟩

/-- The CODEWORD words stand at 0x200 + 4w (R41). -/
theorem targetOf_codeword {w : Nat} (h : w < 64) : targetOf (BitVec.ofNat 10 (0x200 + 4 * w)) = .codeword w := by
  have : ∀ w : Fin 64, targetOf (BitVec.ofNat 10 (0x200 + 4 * w.val)) = .codeword w.val := by decide
  exact this ⟨w, h⟩

/-- The offsets of both buffers are multiples of 4, so a 32-bit access to them is defined (R42). -/
theorem accessDefined_bufferOffset (a w : Nat) (ha : a % 4 = 0) :
    accessDefined (BitVec.ofNat 10 (a + 4 * w)) 4 = true := by
  simp only [accessDefined, BitVec.toNat_ofNat, Bool.and_eq_true, beq_iff_eq, true_and]
  omega

/-- Which offsets, all multiples of 4, no register occupies (R43). -/
theorem targetOf_unmapped {off : Offset} (h4 : off.toNat % 4 = 0)
    (h : 0x014 ≤ off.toNat ∧ off.toNat < 0x100 ∨ 0x300 ≤ off.toNat) : targetOf off = .unmapped := by
  unfold targetOf
  repeat rw [if_neg (by omega)]

/-- A read whose register is no result, or while BUSY = 0, is no draw: it shows the register's value (R116). -/
theorem busReadData_of_not_draws {off : Offset} {s : State} (h : readDraws off s = false) :
    busReadData off s = targetWord s (targetOf off) := by
  simp [busReadData, h]

/-- While BUSY = 1 a read of a result is a free value (R26, R29). -/
theorem busReadData_of_draws {off : Offset} {s : State} (h : readDraws off s = true) :
    busReadData off s = Config.draw32 s.draws := by
  simp [busReadData, h]

theorem readDraws_of_idle {off : Offset} {s : State} (h : s.busy = false) : readDraws off s = false := by
  simp [readDraws, h]

theorem readDraws_of_not_result {off : Offset} {s : State} (h : (targetOf off).isResult = false) :
    readDraws off s = false := by
  simp [readDraws, h]

/-- What a read returns depends on nothing but the block and the number of draws. -/
theorem busReadData_congr {s t : State} (h : SameBlock s t) (hd : t.draws = s.draws) (off : Offset) :
    busReadData off t = busReadData off s := by
  obtain ⟨⟨h1, h2, h3, h4, h5⟩, ⟨h6, h7, h8, h9, h10⟩, h11⟩ := h
  have ht : ∀ x : Target, targetWord t x = targetWord s x := by
    intro x
    cases x <;> simp [targetWord, statusWord, lenWord, resultWord, idWord, State.nMax, State.rMax, h1, h2, h3, h4, h5,
      h6, h7, h8, h9, h11]
  simp [busReadData, readDraws, ht, h6, hd]

/-- A write of LEN (R117). -/
theorem busWrite_len (v : Word) (s : State) :
    busWrite 0x008 v s = .next (if s.busy then s.dropWrite else s.writeLen v) := rfl

/-- A write of CTRL (R117). -/
theorem busWrite_ctrl (v : Word) (s : State) : busWrite 0x000 v s = ctrlWrite v s := rfl

/-- A write of a PAYLOAD word (R117). -/
theorem busWrite_payload {w : Nat} (h : w < 64) (v : Word) (s : State) :
    busWrite (BitVec.ofNat 10 (0x100 + 4 * w)) v s =
      .next (if s.busy then s.dropWrite else s.writePayload w v) := by
  simp [busWrite, targetOf_payload h]

/-- A write of a read-only register or an unmapped offset is ignored (R117). -/
theorem busWrite_ignored {off : Offset} (v : Word) (s : State)
    (h : targetOf off ≠ .ctrl ∧ targetOf off ≠ .len ∧ ∀ w, targetOf off ≠ .payload w) : busWrite off v s = .next s := by
  unfold busWrite
  cases ht : targetOf off <;> simp_all

end Sys2Proof.Machine
end

