-- ==== Sys2Proof/Laws/PerInstr.lean ====
section
/-!
SUPPORT. Facts about every instruction as syntax, one lemma per constructor: its encoding belongs to its own row of the
opcode table (spec rule R63).
-/

namespace Sys2Proof.Laws.EncodingMatchesTable

/-- A well-formed instruction's command word belongs to the row of the opcode table that has its mnemonic, and to no
other row. -/
def Statement (i : Instr) : Prop :=
  i.wellFormed = true → (opcodeTable.filter (fun r => r.hits (encode i))).map (fun r => r.mnemonic) = [i.mnemonic]

theorem nop : Statement .nop := fun _ => by decide

theorem plan : Statement .plan := fun _ => by decide

theorem encode : Statement .encode := fun _ => by decide

theorem clear : Statement .clear := fun _ => by decide

theorem reserved47 (code : Code) : Statement (.reserved47 code) := by
  unfold Statement; revert code; decide

theorem reserved8F (code : Code) : Statement (.reserved8F code) := by
  unfold Statement; revert code; decide

end Sys2Proof.Laws.EncodingMatchesTable
end

