-- ==== Sys2Proof/Laws/Step.lean ====
section
/-!
SUPPORT. What one step can do, said once, and the step of each kind of event.
-/

namespace Sys2Proof.Machine

/-- What happens to the block in one event: nothing, reset, the pending command is performed, a write is dropped, a
command is accepted, LEN is written, or a PAYLOAD word is written. -/
inductive BlockEvent (s t : State) : Prop where
  | none (h : t = s)
  | reset (h : t = s.resetBlock)
  | engine (hb : s.busy = true) (hp : s.pend ≠ 0#4) (h : exec (decodeCode s.pend) s = .next t)
  | dropped (hb : s.busy = true) (h : t = s.dropWrite)
  | accepted (hb : s.busy = false) (c : Code) (hc : c ≠ 0#4) (h : t = s.accept c)
  | lenWritten (hb : s.busy = false) (v : Word) (h : t = s.writeLen v)
  | payloadWritten (hb : s.busy = false) (w : Nat) (v : Word) (h : t = s.writePayload w v)

theorem SameBlock.refl (s : State) : SameBlock s s := ⟨⟨rfl, rfl, rfl, rfl, rfl⟩, ⟨rfl, rfl, rfl, rfl, rfl⟩, rfl⟩

theorem SameBlock.trans {s t u : State} (h1 : SameBlock s t) (h2 : SameBlock t u) : SameBlock s u := by
  obtain ⟨⟨a1, a2, a3, a4, a5⟩, ⟨b1, b2, b3, b4, b5⟩, c⟩ := h1
  obtain ⟨⟨d1, d2, d3, d4, d5⟩, ⟨e1, e2, e3, e4, e5⟩, f⟩ := h2
  exact ⟨⟨d1.trans a1, d2.trans a2, d3.trans a3, d4.trans a4, d5.trans a5⟩,
    ⟨e1.trans b1, e2.trans b2, e3.trans b3, e4.trans b4, e5.trans b5⟩, f.trans c⟩

/-- One transaction does one thing to the block, or is a bus error. -/
theorem busAccess_cases (k : Nat) (t : Transaction) (s : State) :
    (∃ d, busAccess k t s = .fault (.busError t d)) ∨
    ∃ v u, busAccess k t s = .next u ∧ BlockEvent s v ∧ SameBlock v u := by
  cases t with
  | read off size =>
    rw [busAccess_read]
    split
    · refine .inr ⟨s, _, rfl, .none rfl, (afterRead_sameBlock off s).trans ?_⟩
      simp [SameBlock, SameData, SameFlags]
    · exact .inl ⟨_, rfl⟩
  | write off size v =>
    rw [busAccess_write]
    split
    · obtain ⟨t, ht, hc⟩ := busWrite_cases off v s
      refine .inr ⟨t, t.observe k .ack, by rw [ht]; rfl, ?_, by simp [SameBlock, SameData, SameFlags]⟩
      rcases hc with h | ⟨hb, h⟩ | ⟨hb, h0, h⟩ | ⟨hb, h⟩ | ⟨hb, w, h⟩
      · exact .none h
      · exact .dropped hb h
      · exact .accepted hb _ h0 h
      · exact .lenWritten hb v h
      · exact .payloadWritten hb w v h
    · exact .inl ⟨_, rfl⟩

/-- One line of a host program does one thing to the block, or is a bus error. -/
theorem runLine_cases (k : Nat) (l : Line) (ls : List Line) (s : State) :
    (∃ t d, runLine k l ls s = .fault (.busError t d)) ∨
    ∃ v w u, runLine k l ls s = .next u ∧ SameBlock s v ∧ BlockEvent v w ∧ SameBlock w u := by
  have hset : SameBlock s (s.setProgram k ls) := by simp [SameBlock, SameData, SameFlags]
  have key : ∀ t (s' : State), SameBlock s s' → runLine k l ls s = busAccess k t s' →
      (∃ t d, runLine k l ls s = .fault (.busError t d)) ∨
      ∃ v w u, runLine k l ls s = .next u ∧ SameBlock s v ∧ BlockEvent v w ∧ SameBlock w u := by
    intro t s' hs he
    rcases busAccess_cases k t s' with ⟨d, hd⟩ | ⟨v, u, hu, hv, hvu⟩
    · exact .inl ⟨t, d, he.trans hd⟩
    · exact .inr ⟨s', v, u, he.trans hu, hs, hv, hvu⟩
  cases l with
  | access t => exact key t _ hset rfl
  | poll off mask val =>
    by_cases h : busReadData off s &&& mask = val
    · exact key (.read off 4) _ hset (by simp [runLine, h])
    · exact key (.read off 4) _ (SameBlock.refl s) (by simp [runLine, h])

theorem withTurns_sameBlock (ts : List Turn) (s : State) : SameBlock s (s.withTurns ts) :=
  ⟨⟨rfl, rfl, rfl, rfl, rfl⟩, ⟨rfl, rfl, rfl, rfl, rfl⟩, rfl⟩

/-- What the ENGINE's turn can do. -/
theorem engineTurn_cases (s : State) :
    (s.busy = true ∧ s.pend = 0#4 ∧ engineTurn s = .fault .engineWithoutCommand) ∨
    ∃ u, engineTurn s = .next u ∧ BlockEvent s u := by
  unfold engineTurn engineStep
  cases hb : s.busy
  · exact .inr ⟨s, by simp, .none rfl⟩
  · by_cases hp : s.pend = 0#4
    · exact .inl ⟨rfl, hp, by simp [hp]⟩
    · obtain ⟨u, hu⟩ := exec_next (decodeCode s.pend) s
      exact .inr ⟨u, by simp [hp, hu], .engine hb hp hu⟩

/-- What one step can do: a bus error, the ENGINE's stop in a state no run reaches, or a next state in which one thing
has happened to the block. -/
theorem step_cases (s : State) :
    (∃ t d, step s = .fault (.busError t d)) ∨
    (s.busy = true ∧ s.pend = 0#4 ∧ step s = .fault .engineWithoutCommand) ∨
    ∃ v w u, step s = .next u ∧ SameBlock s v ∧ BlockEvent v w ∧ SameBlock w u := by
  unfold step nextEvent
  split
  · rename_i t ts heq
    have hts := withTurns_sameBlock ts s
    cases t with
    | host k =>
      simp only [runTurn, hostTurn]
      split
      · rename_i l ls _
        rcases runLine_cases k l ls (s.withTurns ts) with h | ⟨v, w, u, hu, hv, hw, hwu⟩
        · exact .inl h
        · exact .inr (.inr ⟨v, w, u, hu, hts.trans hv, hw, hwu⟩)
      · exact .inr (.inr ⟨_, _, _, rfl, hts, .none rfl, SameBlock.refl _⟩)
    | engine =>
      rcases engineTurn_cases (s.withTurns ts) with ⟨hb, hp, h⟩ | ⟨u, hu, he⟩
      · exact .inr (.inl ⟨hb, hp, h⟩)
      · exact .inr (.inr ⟨_, _, _, hu, hts, he, SameBlock.refl _⟩)
    | reset => exact .inr (.inr ⟨_, _, _, rfl, hts, .reset rfl, SameBlock.refl _⟩)
  · rcases engineTurn_cases s with ⟨hb, hp, h⟩ | ⟨u, hu, he⟩
    · exact .inr (.inl ⟨hb, hp, h⟩)
    · exact .inr (.inr ⟨_, _, _, hu, SameBlock.refl _, he, SameBlock.refl _⟩)

/-- The step when the ENGINE has the next turn. -/
theorem step_engine {s : State} {ts : List Turn} (h : s.turns = .engine :: ts) :
    step s = engineTurn (s.withTurns ts) := by
  simp [step, nextEvent, h, runTurn]

/-- The step when nothing more is scheduled. -/
theorem step_unscheduled {s : State} (h : s.turns = []) : step s = engineTurn s := by
  simp [step, nextEvent, h]

/-- The step when the reset input has the next turn. -/
theorem step_reset {s : State} {ts : List Turn} (h : s.turns = .reset :: ts) :
    step s = .next (s.withTurns ts).resetBlock := by
  simp [step, nextEvent, h, runTurn]

/-- The step when host `k` offers line `l`. -/
theorem step_offers {s : State} {k : Nat} {l : Line} {ls : List Line} {ts : List Turn} (h : Offers s k l ls ts) :
    step s = runLine k l ls (s.withTurns ts) := by
  simp [step, nextEvent, h.1, runTurn, hostTurn, h.2]

/-- The step when host `k` offers a transaction. -/
theorem step_offers_access {s : State} {k : Nat} {t : Transaction} {ls : List Line} {ts : List Turn}
    (h : Offers s k (.access t) ls ts) : step s = busAccess k t (s.took k ls ts) := by
  rw [step_offers h]
  rfl

/-- Which event a step that goes on was, with its effect: the reset input; the ENGINE's step; a host's defined write; or
an event that leaves the block as it was. -/
theorem step_next_cases {s t : State} (h : step s = .next t) :
    (∃ ts, s.turns = .reset :: ts ∧ t = (s.withTurns ts).resetBlock) ∨
    (EngineIsNext s ∧ s.pend ≠ 0#4 ∧ exec (decodeCode s.pend) (s.withTurns s.turns.tail) = .next t) ∨
    (∃ k off v ls ts u, Offers s k (.access (.write off 4 v)) ls ts ∧ accessDefined off 4 = true ∧
      busWrite off v (s.took k ls ts) = .next u ∧ t = u.observe k .ack) ∨
    SameBlock s t := by
  have engine : ∀ u : State, SameBlock s u → u = (s.withTurns s.turns.tail) →
      (s.turns = [] ∨ ∃ ts, s.turns = .engine :: ts) → engineTurn u = .next t →
      (EngineIsNext s ∧ s.pend ≠ 0#4 ∧ exec (decodeCode s.pend) (s.withTurns s.turns.tail) = .next t) ∨
      SameBlock s t := by
    intro u hu hue hturn ht
    unfold engineTurn engineStep at ht
    split at ht
    · rename_i hb
      split at ht
      · cases ht
      · rename_i hp
        subst hue
        exact .inl ⟨⟨hb, hturn⟩, hp, ht⟩
    · cases ht
      exact .inr hu
  have read : ∀ (k : Nat) (off : Offset) (size : Nat) (u : State), SameBlock s u →
      busAccess k (.read off size) u = .next t → SameBlock s t := by
    intro k off size u hu ht
    rw [busAccess_read] at ht
    split at ht
    · cases ht
      exact (hu.trans (afterRead_sameBlock off u)).trans (by simp [SameBlock, SameData, SameFlags])
    · cases ht
  cases hturns : s.turns with
  | nil =>
    rw [step_unscheduled hturns] at h
    rw [← hturns]
    rcases engine s (SameBlock.refl s) (by ext <;> simp [hturns]) (.inl hturns) h with h | h
    · exact .inr (.inl h)
    · exact .inr (.inr (.inr h))
  | cons x ts =>
    cases x with
    | reset =>
      rw [step_reset hturns] at h
      cases h
      exact .inl ⟨ts, rfl, rfl⟩
    | engine =>
      rw [step_engine hturns] at h
      rw [← hturns]
      rcases engine _ (withTurns_sameBlock ts s) (by rw [hturns]; rfl) (.inr ⟨ts, hturns⟩) h with h | h
      · exact .inr (.inl h)
      · exact .inr (.inr (.inr h))
    | host k =>
      rw [← hturns]
      cases hhost : s.hosts[k]? with
      | none =>
        simp only [step, nextEvent, hturns, runTurn, hostTurn, State.withTurns_hosts, hhost] at h
        cases h
        exact .inr (.inr (.inr (withTurns_sameBlock ts s)))
      | some program =>
        cases program with
        | nil =>
          simp only [step, nextEvent, hturns, runTurn, hostTurn, State.withTurns_hosts, hhost] at h
          cases h
          exact .inr (.inr (.inr (withTurns_sameBlock ts s)))
        | cons l ls =>
          have ho : Offers s k l ls ts := ⟨hturns, hhost⟩
          have htook : SameBlock s (s.took k ls ts) := by simp [SameBlock, SameData, SameFlags, State.took]
          cases l with
          | poll off mask val =>
            rw [step_offers ho] at h
            simp only [runLine] at h
            split at h
            · exact .inr (.inr (.inr (read k off 4 _ htook h)))
            · exact .inr (.inr (.inr (read k off 4 _ (withTurns_sameBlock ts s) h)))
          | access tr =>
            rw [step_offers_access ho] at h
            cases tr with
            | read off size => exact .inr (.inr (.inr (read k off size _ htook h)))
            | write off size v =>
              rw [busAccess_write] at h
              split at h
              · rename_i hd
                obtain ⟨u, hu, _⟩ := busWrite_cases off v (s.took k ls ts)
                rw [hu] at h
                cases h
                have h4 : size = 4 := by simp only [accessDefined, Bool.and_eq_true, beq_iff_eq] at hd; exact hd.1
                subst h4
                exact .inr (.inr (.inl ⟨k, off, v, ls, ts, u, ho, hd, hu, rfl⟩))
              · cases h

end Sys2Proof.Machine
end

