-- ==== Sys2Proof/Tests/Slice0.lean ====
section
/-!
SUPPORT. Tests. Expected values are the spec's own: 95_test_vectors.md, the worked examples of the rules, or words
written out bit by bit from R60 and R63. The last part shows, for each statement with hypotheses, states and operands
that meet them together.
-/

namespace Sys2Proof.Tests

open Sys2Proof.Machine

-- Well-formedness: an ill-formed term for each check

theorem test_reserved47_refuses_a_command_code : (Instr.reserved47 0x3).wellFormed = false := by decide
theorem test_reserved47_refuses_a_code_of_the_other_row : (Instr.reserved47 0x8).wellFormed = false := by decide
theorem test_reserved8F_refuses_a_code_of_the_other_row : (Instr.reserved8F 0x7).wellFormed = false := by decide
theorem test_reserved_rows_accept_their_ends :
    (Instr.reserved47 0x4).wellFormed ∧ (Instr.reserved47 0x7).wellFormed ∧ (Instr.reserved8F 0x8).wellFormed ∧
      (Instr.reserved8F 0xF).wellFormed := by decide

-- Decoding, each word written out from the pattern xxxx...xCCCC of R60

theorem test_decode_nop : decodeCmd 0b00000000000000000000000000000000 = .nop := by decide
theorem test_decode_nop_ignored_bits : decodeCmd 0b11111111111111111111111111110000 = .nop := by decide
theorem test_decode_plan : decodeCmd 0b00000000000000000000000000000001 = .plan := by decide
theorem test_decode_encode : decodeCmd 0b00010010001101000101011001110010 = .encode := by decide
theorem test_decode_clear : decodeCmd 0b10000000000000000000000000000011 = .clear := by decide
theorem test_decode_reserved47 : decodeCmd 0b00000000000000000000000000000111 = .reserved47 0b0111 := by decide
theorem test_decode_reserved47_low : decodeCmd 0b00000000000000000000000000010100 = .reserved47 0b0100 := by decide
theorem test_decode_reserved8F : decodeCmd 0b00000000000000000000000000001111 = .reserved8F 0b1111 := by decide
theorem test_decode_reserved8F_low : decodeCmd 0b00000000000000000000000000001000 = .reserved8F 0b1000 := by decide

/-- Byte 0 of a word holds bits 7:0 (R44), so the code is in the byte at the lowest address. -/
theorem test_decode_bytes : decode [0x02, 0x56, 0x34, 0x12, 0xAA] = .ok (.encode, [0xAA]) := by decide
theorem test_decode_truncated : decode [0x02, 0x56, 0x34] = .error (.truncated 3) := by decide

-- The planner (R81, 95_test_vectors.md section 2.1)

theorem test_plan_edges : [0, 1, 2, 4, 5, 11, 12, 26, 27].map plan = [0, 2, 3, 3, 4, 4, 5, 5, 6] := by decide
theorem test_plan_capacity : plan 1013 = 10 ∧ plan 1014 = 11 ∧ plan 2036 = 11 ∧ plan 2037 = 12 := by decide +kernel

-- The encoder (95_test_vectors.md section 2.2)

/-- "1011" gives 0110011 (95_test_vectors.md section 1, S3 completed). -/
theorem test_hammingEncode_1011 :
    hammingEncode [true, false, true, true] = [false, true, true, false, false, true, true] := by decide

/-- "10101" gives 001101011. -/
theorem test_hammingEncode_10101 : hammingEncode [true, false, true, false, true] =
    [false, false, true, true, false, true, false, true, true] := by decide

-- States for the tests

/-- What `f` shows of the next state, if the outcome is one. -/
def after {α : Type} (o : Host.Outcome State Fault Refusal) (f : State → α) : Option α :=
  match o with
  | .next t => some (f t)
  | _ => none

/-- An idle block with a length and a payload. -/
def loaded (m : BitVec 12) (p : Buffer) : State := { State.reset with len := m, pay := p }

/-- The block with this command pending, and the ENGINE's turn next. -/
def pending (c : Code) (s : State) : State := { s.accept c with turns := [.engine] }

/-- Host 0 is about to perform this line. -/
def offering (l : Line) (s : State) : State := { s with hosts := [[l]], turns := [.host 0] }

/-- STATUS = 0x12, as a failed PLAN leaves it. -/
def failed : State := { State.reset with done := true, err := 1 }

-- The commands

theorem test_exec_nop_keeps_status : after (exec .nop failed) (busReadData 0x004) = some 0x00000012 := by decide

/-- PLAN, LEN = 8: RESULT = 0x0004000C (R84). -/
theorem test_exec_plan_8 : after (exec .plan (loaded 8 0)) (busReadData 0x00C) = some 0x0004000C := by decide
/-- PLAN, LEN = M_MAX + 1: STATUS = 0x12. -/
theorem test_exec_plan_2037 : after (exec .plan (loaded 2037 0)) (busReadData 0x004) = some 0x00000012 := by decide

/-- ENCODE of "1011": CODEWORD[0] = 0x66 (R101). -/
theorem test_exec_encode_1011 : after (exec .encode (loaded 4 0xD)) (busReadData 0x200) = some 0x00000066 := by
  decide +kernel
/-- ENCODE of 27 ones crosses a word: CODEWORD[0] = 0xFFFFFFFE, CODEWORD[1] = 1. -/
theorem test_exec_encode_crosses_a_word : after (exec .encode (loaded 27 0x7FFFFFF))
    (fun t => (busReadData 0x200 t, busReadData 0x204 t)) = some (0xFFFFFFFE, 0x00000001) := by decide +kernel

/-- CLEAR from STATUS = 0x16: STATUS = 0x2, LEN = 0 (R114). -/
theorem test_exec_clear : after (step (pending 0x3 { failed with ovr := true, len := 9 }))
    (fun t => (busReadData 0x004 t, busReadData 0x008 t)) = some (0x00000002, 0) := by decide

/-- A reserved code with LEN > M_MAX reports CMD_ERR, never PLAN_ERR (R115). -/
theorem test_exec_reserved47 : after (step (pending 0x7 (loaded 4095 0))) (busReadData 0x004) = some 0x00000022 := by
  decide
theorem test_exec_reserved8F : after (step (pending 0xF (loaded 4095 0))) (busReadData 0x004) = some 0x00000022 := by
  decide

-- Host accesses (95_test_vectors.md sections 2.4 and 2.5)

theorem test_accept_keeps_ovr : after (step (offering (.access (.write 0x000 4 0x3))
    { failed with ovr := true })) (busReadData 0x004) = some 0x00000005 := by decide
theorem test_busy_command_is_dropped : after (step (offering (.access (.write 0x000 4 0x2))
    (State.reset.accept 0x1))) (fun t => (busReadData 0x004 t, t.pend)) = some (0x00000005, 0x1) := by decide
theorem test_busy_len_is_dropped : after (step (offering (.access (.write 0x008 4 5))
    (State.reset.accept 0x1))) (fun t => (busReadData 0x004 t, busReadData 0x008 t)) = some (0x00000005, 0) := by decide
theorem test_busy_payload63_is_dropped : after (step (offering (.access (.write 0x1FC 4 1))
    (State.reset.accept 0x1))) (busReadData 0x004) = some 0x00000005 := by decide
theorem test_busy_nop_sets_no_ovr : after (step (offering (.access (.write 0x000 4 0))
    (State.reset.accept 0x1))) (busReadData 0x004) = some 0x00000001 := by decide
theorem test_busy_status_write_is_ignored : after (step (offering (.access (.write 0x004 4 0xFF))
    (State.reset.accept 0x1))) (busReadData 0x004) = some 0x00000001 := by decide
theorem test_len_keeps_twelve_bits : after (step (offering (.access (.write 0x008 4 0xFFFFFFFF)) State.reset))
    (busReadData 0x008) = some 0x00000FFF := by decide
/-- Bits 2036 to 2047 do not exist. -/
theorem test_payload63_keeps_twenty_bits :
    after (step (offering (.access (.write 0x1FC 4 0xFFFFFFFF)) State.reset)) (busReadData 0x1FC) =
      some 0x000FFFFF := by decide +kernel
theorem test_id : busReadData 0x010 State.reset = 0x17FFB7F4 := by decide +kernel
theorem test_unmapped_reads_zero : [0x014, 0x0FC, 0x300, 0x3FC].map (fun off => busReadData off failed) =
    [0, 0, 0, 0] := by decide
theorem test_read_is_observed : after (step (offering (.access (.read 0x004 4)) failed)) State.seen =
    some [(0, .data 0x00000012)] := by decide
theorem test_result_read_while_busy_is_a_draw : busReadData 0x00C (State.reset.accept 0x2) = Config.draw32 0 := rfl
theorem test_byte_read_is_a_bus_error : step (offering (.access (.read 0x004 1)) State.reset) =
    .fault (.busError (.read 0x004 1) (some (Config.draw32 0))) := rfl
theorem test_unaligned_write_is_a_bus_error : step (offering (.access (.write 0x002 4 0)) State.reset) =
    .fault (.busError (.write 0x002 4 0) none) := rfl

-- Events

theorem test_reset_abandons_the_command : after (step { State.reset.accept 0x2 with turns := [.reset] })
    (fun t => (busReadData 0x004 t, t.pend)) = some (0, 0) := by decide
theorem test_wait_stays_while_busy : after (step (offering waitLine (State.reset.accept 0x1))) State.hosts =
    some [[waitLine]] := by decide
theorem test_wait_ends_when_idle : after (step (offering waitLine failed)) State.hosts = some [[]] := by decide

-- The assembler (R68)

theorem test_readLine_wr : readLine "WR PAYLOAD[0], 0xD".toList = some (.wr (.payload 0) 0xD) := by decide
theorem test_readLine_rd : readLine "RD 0x3FC".toList = some (.rd (.raw 0x3FC)) := by decide
theorem test_readLine_poll : readLine "POLL STATUS, 0x1, 0x0".toList = some (.poll .status 1 0) := by decide
theorem test_readLine_run : (readLine "RUN ENCODE".toList).map AsmLine.expand =
    some [.access (.write 0x000 4 0x2), .poll 0x004 0x1 0x0] := by decide
theorem test_readLine_refuses_a_wide_immediate : readLine "WR LEN, 0x100000000".toList = none := by decide

-- Witnesses: states and operands that meet the hypotheses of a statement together

/-- A host program's one line, offered to the block. -/
theorem offers_offering (l : Line) (s : State) : Offers (offering l s) 0 l [] [] := ⟨rfl, rfl⟩

theorem witness_DecodeOfEncodeIsTheInstruction :
    (Instr.reserved47 0x4).wellFormed = true ∧ (Instr.reserved8F 0xF).wellFormed = true := by decide

theorem witness_PlanProperties :
    plan 1 > 0 ∧ 3 ≤ 3 ∧ 4 ≤ 4 ∧ (1 : Nat) ≤ 2 ∧ plan 1 = 2 ∧ plan 4 = 3 ∧ plan 5 = 4 := by decide

theorem witness_CapacitiesCoverEveryAcceptedLength :
    State.reset.mMax.val = 2036 ∧ 0 ≤ State.reset.mMax.val ∧ 2036 ≤ State.reset.mMax.val := by decide

/-- Positions 1 (parity), 2 (parity) and 3 (data) of a one-bit payload. -/
theorem witness_DataPlacement :
    (1 ≤ 1 ∧ 1 ≤ codewordLength 1 ∧ isPow2 1 = true) ∧ 3 ≤ codewordLength 1 ∧ isPow2 3 = false := by decide

theorem witness_EveryParityGroupIsEven : 0 < plan [true].length ∧ 1 < plan [true].length := by decide

theorem witness_ParityOrderIsFree :
    (0 : Nat) ≠ 1 ∧ 1 < plan [true].length ∧ [1, 0].Perm (List.range (plan [true].length)) := by decide

theorem witness_EncodeCornerCases : (2 : Nat) ≤ 2 := by decide

/-- BUSY or not. -/
theorem witness_NopChangesNothing :
    Offers (offering (.access (.write 0x000 4 0xFFFFFFF0)) (State.reset.accept 0x1)) 0
      (.access (.write 0x000 4 0xFFFFFFF0)) [] [] ∧
    Offers (offering (.access (.write 0x000 4 0)) failed) 0 (.access (.write 0x000 4 0)) [] [] ∧
    (0xFFFFFFF0 : Word).toNat % 16 = 0 := ⟨offers_offering _ _, offers_offering _ _, by decide⟩

/-- Each corner length at M_MAX = 2036, and the lengths on both sides of M_MAX. -/
theorem witness_PlanCommandEffect :
    (∀ m ∈ [0#12, 1#12, 4#12, 8#12, 2036#12], (loaded m 0).len.toNat ≤ (loaded m 0).mMax.val) ∧
    (loaded 2036 0).len.toNat = (loaded 2036 0).mMax.val ∧ (loaded 2037 0).len.toNat = (loaded 2037 0).mMax.val + 1 ∧
    ∃ t, exec .plan (loaded 4 0) = .next t := ⟨by decide, by decide, by decide, exec_next _ _⟩

theorem witness_EncodeCommandEffect :
    (loaded 0 0).len.toNat ≤ (loaded 0 0).mMax.val ∧ (loaded 2036 1).len.toNat ≤ (loaded 2036 1).mMax.val := by decide

theorem witness_LengthErrorIsPlanErr :
    (loaded 2037 0).mMax.val < (loaded 2037 0).len.toNat ∧ (Instr.plan = .plan ∨ Instr.plan = .encode) ∧
    Instr.plan ≠ .nop ∧ ∃ t, exec .plan (loaded 2037 0) = .next t := ⟨by decide, by decide, by decide, exec_next _ _⟩

/-- The third and fourth clause: BUSY or not, and the worked example's STATUS = 0x16. -/
theorem witness_ClearCommandEffect :
    (0x3 : Word).toNat % 16 = 3 ∧ (State.reset.accept 0x1).busy = true ∧ State.reset.busy = false ∧
    { failed with ovr := true }.busy = false ∧ busReadData 0x004 { failed with ovr := true } = 0x00000016 ∧
    ∃ a, ctrlWrite 0x3 { failed with ovr := true } = .next a :=
  ⟨by decide, by decide, by decide, by decide, by decide, _, rfl⟩

theorem witness_ReservedCommandsReportCmdErr :
    State.reset.busy = false ∧ State.reset.ovr = false ∧ 4 ≤ (0x4 : Word).toNat % 16 ∧ 4 ≤ (0xF : Word).toNat % 16 := by
  decide

/-- Two payloads that differ only beyond LEN. -/
theorem witness_EncodeDependsOnlyOnItsOperands :
    (loaded 4 0xD).len = (loaded 4 0x1D).len ∧ (loaded 4 0xD).mMax = (loaded 4 0x1D).mMax ∧
    (∀ j < (loaded 4 0xD).len.toNat, (loaded 4 0xD).pay.getLsbD j = (loaded 4 0x1D).pay.getLsbD j) ∧
    (loaded 4 0xD).len.toNat ≤ (loaded 4 0xD).mMax.val := by decide +kernel

theorem witness_CommandAcceptance :
    (0x10 : Word).toNat % 16 = 0 ∧ (0x1 : Word).toNat % 16 ≠ 0 ∧ (0xF : Word).toNat % 16 ≠ 0 ∧
    State.reset.busy = false ∧ (State.reset.accept 0x1).busy = true := by decide

/-- A dropped write of each kind, at the ends of the PAYLOAD window, is offered to a busy block. -/
theorem witness_IsDropped :
    IsDropped (State.reset.accept 0x1) (.write 0x000 4 0x1) ∧ IsDropped (State.reset.accept 0x1) (.write 0x008 4 5) ∧
    IsDropped (State.reset.accept 0x1) (.write 0x100 4 5) ∧ IsDropped (State.reset.accept 0x1) (.write 0x1FC 4 5) :=
  ⟨⟨_, _, rfl, rfl, by decide⟩, ⟨_, _, rfl, rfl, by decide⟩, ⟨_, _, rfl, rfl, by decide⟩, ⟨_, _, rfl, rfl, by decide⟩⟩

/-- A step that drops a write, and one that clears OVR, by reset and by CLEAR. -/
theorem witness_WritesWhileBusyAreDropped :
    (IsDropped (offering (.access (.write 0x008 4 5)) (State.reset.accept 0x1)) (.write 0x008 4 5) ∧
      ∃ t, step (offering (.access (.write 0x008 4 5)) (State.reset.accept 0x1)) = .next t ∧ t.ovr = true) ∧
    (∃ t, step { State.reset.dropWrite with turns := [.reset] } = .next t ∧ t.ovr = false) ∧
    ∃ t, step (pending 0x3 State.reset.dropWrite) = .next t ∧ t.ovr = false :=
  ⟨⟨⟨_, _, rfl, rfl, by decide⟩, _, rfl, rfl⟩, ⟨_, rfl, rfl⟩, _, rfl, rfl⟩

/-- The offsets of R116's and R117's clauses, at the ends of their ranges, and the undefined accesses. -/
theorem witness_BusReadValues_BusWriteEffects :
    (0x014 : Offset).toNat % 4 = 0 ∧ (0x014 ≤ (0x014 : Offset).toNat ∧ (0x0FC : Offset).toNat < 0x100) ∧
    0x300 ≤ (0x300 : Offset).toNat ∧ (0x3FC : Offset).toNat % 4 = 0 ∧ ¬ (1 = 4 ∧ (0x004 : Offset).toNat % 4 = 0) ∧
    ¬ (4 = 4 ∧ (0x002 : Offset).toNat % 4 = 0) ∧ (0 : Nat) < 64 ∧ 63 < 64 ∧ 31 < 32 ∧
    State.reset.busy = false ∧ (State.reset.accept 0x1).busy = true := by decide

theorem witness_UndefinedAccessIsBusError :
    Offers (offering (.access (.read 0x004 1)) failed) 0 (.access (.read 0x004 1)) [] [] ∧
    Offers (offering (.access (.write 0x002 4 7)) failed) 0 (.access (.write 0x002 4 7)) [] [] :=
  ⟨offers_offering _ _, offers_offering _ _⟩

theorem witness_LenRegister_PayloadWordsReadBack :
    State.reset.busy = false ∧ (State.reset.accept 0x1).busy = true ∧ 0 < 64 ∧ 63 < 64 ∧
    (0x104 : Offset).toNat % 4 = 0 ∧ (0x104 : Offset) ≠ BitVec.ofNat 10 (0x100 + 4 * 0) := by decide

/-- A read and a poll that step, and two reads of an idle block. -/
theorem witness_ReadsHaveNoSideEffects :
    (Offers (offering (.access (.read 0x00C 4)) failed) 0 (.access (.read 0x00C 4)) [] [] ∧
      ∃ t, step (offering (.access (.read 0x00C 4)) failed) = .next t) ∧
    (Offers (offering waitLine failed) 0 waitLine [] [] ∧ ∃ t, step (offering waitLine failed) = .next t) ∧
    (∃ t, busAccess 0 (.read 0x200 4) failed = .next t) ∧ failed.busy = false ∧
    (targetOf 0x004).isResult = false :=
  ⟨⟨offers_offering _ _, _, rfl⟩, ⟨offers_offering _ _, _, rfl⟩, ⟨_, rfl⟩, rfl, by decide⟩

theorem witness_StepPerformsTheDecodedInstruction :
    ((pending 0x2 State.reset).turns = [.engine] ∧ (pending 0x2 State.reset).busy = true ∧
      (pending 0x2 State.reset).pend ≠ 0x0#4 ∧ decodeCode (pending 0x2 State.reset).pend = .encode) ∧
    ((State.reset.accept 0x1).turns = [] ∧ decodeCode (State.reset.accept 0x1).pend = .plan) ∧
    decode (bytesOfWord 0xFFFFFFF0) = .ok (.nop, []) ∧ decode (bytesOfWord 0x00000013) = .ok (.clear, []) ∧
    Offers (offering (.access (.write 0x000 4 0x13)) failed) 0 (.access (.write 0x000 4 0x13)) [] [] ∧
    failed.busy = false :=
  ⟨by decide, by decide, by decide, by decide, offers_offering _ _, rfl⟩

theorem witness_FetchWordIsPerformedNext :
    decodeTableWord 32 0x00000002 = some .encode ∧ decodeTableWord 32 0x00000000 = some .nop ∧
    decodeTableWord 8 0x0000000F = some (.reserved8F 0xF) ∧ Instr.encode ≠ .nop := by decide

/-- The ENGINE is next because it has the turn, and because nothing else is scheduled. -/
theorem witness_EngineIsNext :
    (EngineIsNext (pending 0x1 State.reset) ∧ (pending 0x1 State.reset).pend ≠ 0x0#4) ∧
    EngineIsNext (State.reset.accept 0x1) ∧ State.reset.busy = false ∧
    ∃ t, step (pending 0x1 State.reset) = .next t ∧ t.busy = false :=
  ⟨⟨⟨rfl, .inr ⟨[], rfl⟩⟩, by decide⟩, ⟨rfl, .inl rfl⟩, rfl, _, rfl, rfl⟩

/-- A reset, an acceptance, a dropped write, another access, the ENGINE step of each kind of command, and a poll. -/
theorem witness_StatusFlagWriters :
    (ResetIsNext { State.reset with turns := [.reset] } ∧ ∃ t, step { State.reset with turns := [.reset] } = .next t) ∧
    (AcceptsCommand (offering (.access (.write 0x000 4 0x1)) failed) (.write 0x000 4 0x1) ∧
      ∃ t, step (offering (.access (.write 0x000 4 0x1)) failed) = .next t) ∧
    (∀ c ∈ [0x1#4, 0x2#4, 0x3#4, 0x4#4, 0xF#4], EngineIsNext (pending c failed) ∧
      ∃ t, step (pending c failed) = .next t) ∧
    (¬ AcceptsCommand (offering (.access (.read 0x004 4)) failed) (.read 0x004 4) ∧
      ¬ IsDropped (offering (.access (.read 0x004 4)) failed) (.read 0x004 4) ∧
      ∃ t, step (offering (.access (.read 0x004 4)) failed) = .next t) := by
  refine ⟨⟨⟨[], rfl⟩, _, rfl⟩, ⟨⟨_, rfl, by decide, rfl⟩, _, rfl⟩, ?_, ?_⟩
  · intro c hc
    refine ⟨⟨rfl, .inr ⟨[], rfl⟩⟩, ?_⟩
    have hp : c ≠ 0#4 := by rintro rfl; simp at hc
    obtain ⟨t, ht⟩ := exec_next (decodeCode c) ((pending c failed).withTurns [])
    refine ⟨t, ?_⟩
    rw [step_engine (ts := []) rfl, ← ht]
    change (if c = 0#4 then _ else exec (decodeCode c) _) = _
    rw [if_neg hp]
  · refine ⟨?_, ?_, _, rfl⟩
    · rintro ⟨v, h, _⟩; cases h
    · rintro ⟨off, v, h, _⟩; cases h

theorem witness_ResetAbandonsThePendingCommand :
    ({ State.reset.accept 0x2 with turns := [.reset] } : State).turns = [.reset] ∧
    ∃ t, step (offering (.access (.write 0x000 4 0x1)) failed) = .next t ∧ failed.busy = false ∧ t.busy = true :=
  ⟨rfl, _, rfl, rfl, rfl⟩

/-- A step of a state in which PEND and BUSY agree; a step that leaves a command pending. -/
theorem witness_PendFollowsBusy :
    ((failed.busy = false ↔ failed.pend = 0x0#4) ∧ ∃ t, step failed = .next t) ∧
    ∃ t, step (offering waitLine (State.reset.accept 0x1)) = .next t ∧ t.busy = true := ⟨⟨by decide, _, rfl⟩, _, rfl, rfl⟩

/-- A CTRL write that an idle block accepts (the top command code), and a busy block with that command pending. -/
theorem witness_PendFollowsBusy_acceptance :
    (0x1F : Word).toNat % 16 ≠ 0 ∧ State.reset.busy = false ∧
    (State.reset.accept 0xF).busy = true ∧ (State.reset.accept 0xF).pend ≠ 0x0#4 := by decide

/-- A step that changes the block; an idle block with nothing scheduled; a host whose program has ended. -/
theorem witness_OnlyTheThreeEventsChangeTheBlock :
    (∃ t, step (offering (.access (.write 0x000 4 0x1)) failed) = .next t ∧
      ¬ SameBlock (offering (.access (.write 0x000 4 0x1)) failed) t) ∧
    (failed.busy = false ∧ failed.turns = []) ∧
    ({ failed with turns := [.host 0] } : State).hosts[0]? = none ∧
    ({ failed with turns := [.host 0], hosts := [[]] } : State).hosts[0]? = some [] := by
  refine ⟨⟨_, rfl, ?_⟩, by decide, rfl, rfl⟩
  intro h
  have := h.2.1.1
  simp [offering, failed, State.reset] at this

/-- Two host events while a command is pending. -/
theorem witness_PendingOperandsAreStable :
    (State.reset.accept 0x2).busy = true ∧
    (∀ x ∈ [Turn.host 0, .host 0].take 2, ∃ k, x = .host k) ∧
    ∃ t : State, Host.Core.run core 2 { State.reset.accept 0x2 with
      turns := [.host 0, .host 0], hosts := [[.access (.write 0x008 4 5), waitLine]] } = .next t :=
  ⟨rfl, by simp, _, rfl⟩

/-- A command other than CLEAR that answers a next state. -/
theorem witness_PendingOperandsAreStable_exec :
    (∃ t, exec .plan (pending 0x1 (loaded 4 0)) = .next t) ∧ Instr.plan ≠ .clear := ⟨⟨_, rfl⟩, by decide⟩

/-- A pending command, a schedule of host events alone, and a run through it. -/
theorem witness_PendingCommandIsPerformed :
    (State.reset.accept 0x2).busy = true ∧ (State.reset.accept 0x2).pend ≠ 0x0#4 ∧
    (∀ x ∈ [Turn.host 0], ∃ k, x = .host k) ∧
    ∃ t : State, Host.Core.run core 1 { State.reset.accept 0x2 with turns := [.host 0] } = .next t :=
  ⟨rfl, by decide, by simp, _, rfl⟩

/-- An ENGINE step that changes RESULT, and an idle step. -/
theorem witness_ResultsHoldUntilTheNextCommand :
    (∃ t, step (pending 0x1 (loaded 4 0)) = .next t ∧ t.resN ≠ (pending 0x1 (loaded 4 0)).resN) ∧
    ∃ t, step (offering (.access (.write 0x008 4 5)) failed) = .next t ∧ t.busy = false ∧
      ¬ ResetIsNext (offering (.access (.write 0x008 4 5)) failed) := by
  refine ⟨⟨_, rfl, by decide⟩, _, rfl, rfl, ?_⟩
  rintro ⟨ts, h⟩
  cases h

theorem witness_StaleResultsAreKept :
    ∃ t, exec .plan (loaded 2037 0) = .next t ∧ t.err ≠ 0 ∧ Instr.plan ≠ .nop := ⟨_, rfl, by decide, by decide⟩

theorem witness_StepKeepsTheInvariant : State.reset.Inv ∧ ∃ t, step State.reset = .next t := ⟨by decide +kernel, _, rfl⟩

/-- An XOR over positions that all hold 0 is 0. -/
theorem positionXor_of_zero (member : Nat → Bool) (c : List Bool) (h : ∀ b, c.getD b false = false) :
    positionXor member c = false := by
  unfold positionXor
  generalize List.range c.length = l
  induction l with
  | nil => rfl
  | cons b l ih =>
    rw [List.map_cons, List.foldr_cons, ih, h b]
    simp

theorem witness_StepKeepsEvenGroups : State.reset.EvenGroups ∧ ∃ t, step State.reset = .next t := by
  refine ⟨fun k _ => positionXor_of_zero _ _ fun b => ?_, _, rfl⟩
  by_cases hb : b < 2048
  · simp [codewordBits, hb, State.reset]
  · simp [codewordBits, hb]

theorem witness_OnlyUndefinedAccessesStop : (State.resetAt 7).Inv := by decide +kernel

/-- WAIT offered to a busy block, to an idle one, and before and after an ENGINE step. -/
theorem witness_WaitEndsAfterTheEngineStep :
    (Offers (offering waitLine (State.reset.accept 0x1)) 0 waitLine [] [] ∧
      (offering waitLine (State.reset.accept 0x1)).busy = true) ∧
    (Offers (offering waitLine failed) 0 waitLine [] [] ∧ (offering waitLine failed).busy = false) ∧
    ({ State.reset.accept 0x1 with hosts := [[waitLine]] } : State).hosts[0]? = some [waitLine] ∧
    (State.reset.accept 0x1).pend ≠ 0x0#4 :=
  ⟨⟨offers_offering _ _, rfl⟩, ⟨offers_offering _ _, rfl⟩, rfl, by decide⟩

/-- One idle state that holds the program of R162 for the payload "1011" and its schedule, with one poll before the
ENGINE's step. -/
theorem witness_EncodeProcedureYieldsTheCodeword :
    ∃ s : State, [true, false, true, true].length ≤ s.mMax.val ∧ s.busy = false ∧ s.ovr = false ∧
      s.hosts[0]? = some (encodeProgram [true, false, true, true]) ∧
      s.turns = List.replicate (payloadWords [true, false, true, true].length + 2 + 1) (.host 0) ++
        [.engine, .host 0] :=
  ⟨{ State.reset with
      hosts := [encodeProgram [true, false, true, true]]
      turns := [.host 0, .host 0, .host 0, .host 0, .engine, .host 0] },
    by decide, rfl, rfl, rfl, by decide⟩

end Sys2Proof.Tests
end

section
/-!
PROOFS. The planner. `plan_le_iff` characterises `plan` by its defining inequality (R80); monotonicity and the capacities
of the block (R6) follow from it.
-/

namespace Sys2Proof.Machine

/-- The inequality of R80 goes on holding above any r that meets it. -/
theorem parityFits_of_le {m r k : Nat} (h : m + r + 1 ≤ 2 ^ r) (hrk : r ≤ k) : m + k + 1 ≤ 2 ^ k := by
  induction k, hrk using Nat.le_induction with
  | base => exact h
  | succ k _ ih => rw [pow_succ]; omega

/-- r = m + 1 meets the inequality, the existence bound of R80. -/
theorem parityFits_succ_self (m : Nat) : m + (m + 1) + 1 ≤ 2 ^ (m + 1) := by
  have hm : m < 2 ^ m := Nat.lt_two_pow_self
  rw [pow_succ]; omega

/-- The search does not pass a candidate that meets the inequality. -/
theorem planFrom_le {m k r : Nat} (fuel : Nat) (hk : m + k + 1 ≤ 2 ^ k) (hrk : r ≤ k) : planFrom m fuel r ≤ k := by
  induction fuel generalizing r with
  | zero => exact hrk
  | succ fuel ih =>
    rw [planFrom]
    split
    next => exact hrk
    next hr =>
      have hne : r ≠ k := by rintro rfl; exact hr hk
      exact ih (by omega)

/-- The search ends at an r that meets the inequality when its last candidate does. -/
theorem parityFits_planFrom {m fuel r : Nat} (h : m + (r + fuel) + 1 ≤ 2 ^ (r + fuel)) :
    m + planFrom m fuel r + 1 ≤ 2 ^ planFrom m fuel r := by
  induction fuel generalizing r with
  | zero => exact h
  | succ fuel ih =>
    rw [planFrom]
    split
    next hr => exact hr
    next => exact ih (by rwa [Nat.succ_add_eq_add_succ])

theorem parityFits_plan (m : Nat) : m + plan m + 1 ≤ 2 ^ plan m :=
  parityFits_planFrom (by rw [Nat.zero_add]; exact parityFits_succ_self m)

/-- R80 as one equivalence: the r that meet the inequality are exactly those from `plan m` up. -/
theorem plan_le_iff {m r : Nat} : plan m ≤ r ↔ m + r + 1 ≤ 2 ^ r :=
  ⟨parityFits_of_le (parityFits_plan m), fun h => planFrom_le _ h (Nat.zero_le r)⟩

theorem plan_mono {m m' : Nat} (h : m ≤ m') : plan m ≤ plan m' := by
  have hfits := parityFits_plan m'
  exact plan_le_iff.2 (by omega)

theorem codewordLength_mono {m m' : Nat} (h : m ≤ m') : codewordLength m ≤ codewordLength m' :=
  Nat.add_le_add h (plan_mono h)

/-- R_MAX at the reference value: 11 meets the inequality and 10 does not. -/
theorem plan_mMaxBound : plan Config.mMaxBound = 11 := by
  have hle : plan Config.mMaxBound ≤ 11 := plan_le_iff.2 (by decide)
  have hnot : ¬ plan Config.mMaxBound ≤ 10 := fun h => absurd (plan_le_iff.1 h) (by decide)
  omega

/-- R_MAX fits the field r of RESULT (R12). -/
theorem State.rMax_le (s : State) : s.rMax ≤ 11 :=
  calc s.rMax ≤ plan Config.mMaxBound := plan_mono (Nat.le_of_lt_succ s.mMax.isLt)
    _ = 11 := plan_mMaxBound

/-- N_MAX fits the field n of RESULT (R12). -/
theorem State.nMax_le (s : State) : s.nMax ≤ 2047 :=
  Nat.add_le_add (Nat.le_of_lt_succ s.mMax.isLt) s.rMax_le

/-- Settles O7: `plan` and `codewordLength` are monotone, and at the largest M_MAX they are 11 and 2047. -/
theorem capacitiesCoverEveryAcceptedLength : Obligations.CapacitiesCoverEveryAcceptedLength := by
  refine ⟨fun s h => ?_, fun s m h => ⟨plan_mono h, codewordLength_mono h⟩, fun s => ⟨s.rMax_le, s.nMax_le⟩⟩
  have hr : s.rMax = 11 := by rw [State.rMax, h, plan_mMaxBound]
  exact ⟨hr, by rw [State.nMax, h, hr]⟩

end Sys2Proof.Machine
end

section
/-!
PROOFS. The registers ID and LEN, and what every register shows after reset (10_state.md, R25, R27, R33). ID is the sum
of its fields (`toNat_idWord`), and the map from offsets to registers is read backwards once for each register.
-/

namespace Sys2Proof.Machine

theorem busReadData_id (s : State) : busReadData 0x010 s = idWord s :=
  busReadData_of_not_draws (readDraws_of_not_result rfl)

theorem busReadData_len (s : State) : busReadData 0x008 s = lenWord s :=
  busReadData_of_not_draws (readDraws_of_not_result rfl)

/-- The fields of ID do not overlap, so the word is their sum (R27): each of them is below the weight of the next. -/
theorem toNat_idWord (s : State) :
    (idWord s).toNat = Config.version * 2 ^ 28 + (s.nMax * 2 ^ 16 + (s.rMax * 2 ^ 12 + s.mMax.val)) := by
  have hm : s.mMax.val < 2 ^ 12 := Nat.lt_of_lt_of_le s.mMax.isLt (by decide)
  have hr := s.rMax_le
  have hn := s.nMax_le
  simp only [idWord, Config.version, BitVec.toNat_or, BitVec.toNat_shiftLeft, BitVec.toNat_ofNat, Nat.or_assoc]
  rw [Nat.mod_eq_of_lt (a := s.mMax.val) (by omega), Nat.mod_eq_of_lt (a := s.rMax) (by omega),
    Nat.mod_eq_of_lt (a := s.nMax) (by omega), Nat.mod_eq_of_lt (a := s.rMax <<< 12) (by omega),
    Nat.mod_eq_of_lt (a := s.nMax <<< 16) (by omega), Nat.mod_eq_of_lt (a := (1 % 2 ^ 32) <<< 28) (by decide),
    ← Nat.shiftLeft_add_eq_or_of_lt hm,
    ← Nat.shiftLeft_add_eq_or_of_lt (show s.rMax <<< 12 + s.mMax.val < 2 ^ 16 by omega),
    ← Nat.shiftLeft_add_eq_or_of_lt (show s.nMax <<< 16 + (s.rMax <<< 12 + s.mMax.val) < 2 ^ 28 by omega)]
  simp only [Nat.shiftLeft_eq, Nat.reducePow, Nat.reduceMod]

/-- ID at the reference M_MAX (R27). -/
theorem busReadData_id_of_reference {s : State} (h : s.mMax.val = 2036) : busReadData 0x010 s = 0x17FFB7F4 := by
  obtain ⟨hr, hn⟩ := capacitiesCoverEveryAcceptedLength.1 s h
  apply BitVec.eq_of_toNat_eq
  rw [busReadData_id, toNat_idWord, h, hr, hn]
  rfl

/-- Settles O27: ID is the sum of its fields (`toNat_idWord`), so each field is read back by a division. -/
theorem idReportsTheCapacity : Obligations.IdReportsTheCapacity := by
  refine ⟨fun s => ?_, fun s v => rfl, fun s => busReadData_id_of_reference⟩
  have hm : s.mMax.val ≤ 2036 := Nat.le_of_lt_succ s.mMax.isLt
  have hr := s.rMax_le
  have hn := s.nMax_le
  rw [busReadData_id]
  simp only [BitVec.extractLsb'_toNat, toNat_idWord, Config.version, Nat.shiftRight_eq_div_pow]
  change _ = s.mMax.val ∧ _ = s.rMax ∧ _ = s.nMax ∧ _
  omega

/-- PLAN and ENCODE keep OVR, and report PLAN_ERR exactly when LEN > M_MAX (R84, R101, R142). -/
theorem exec_lengthCommand_flags {i : Instr} {s t : State} (hi : i = .plan ∨ i = .encode) (h : exec i s = .next t) :
    t.ovr = s.ovr ∧ t.err = if s.len.toNat ≤ s.mMax.val then 0 else 1 := by
  rcases exec_cases h with ⟨rfl, _⟩ | ⟨_, hf, rfl⟩ | ⟨_, hf, rfl⟩ | ⟨_, hf, rfl⟩ | ⟨rfl, _⟩ | ⟨⟨c, rfl | rfl⟩, _⟩
  · simp at hi
  · have hlen : ¬ s.len.toNat ≤ s.mMax.val := by simp [← s.lenFits_iff, hf]
    exact ⟨rfl, (if_neg hlen).symm⟩
  · exact ⟨rfl, (if_pos (s.lenFits_iff.1 hf)).symm⟩
  · exact ⟨rfl, (if_pos (s.lenFits_iff.1 hf)).symm⟩
  all_goals simp at hi

/-- Settles O28: the write keeps the low twelve bits, and the commands that read LEN compare exactly these with M_MAX. -/
theorem lenRegister : Obligations.LenRegister := by
  refine ⟨fun s v hb => ?_, fun s v hb => ?_, fun s => ?_, rfl⟩
  · have hlen : (s.writeLen v).len.toNat = v.toNat % 4096 := BitVec.toNat_setWidth 12 v
    refine ⟨s.writeLen v, by rw [busWrite_len, hb]; rfl, ?_, fun i hi => ?_⟩
    · rw [busReadData_len, lenWord, BitVec.toNat_setWidth_of_le (by decide), hlen]
    · obtain ⟨u, hu⟩ := exec_next i (s.writeLen v)
      obtain ⟨-, herr⟩ := exec_lengthCommand_flags hi hu
      exact ⟨u, hu, by rw [herr, hlen]; rfl⟩
  · exact ⟨s.dropWrite, by rw [busWrite_len, hb]; rfl, rfl⟩
  · apply BitVec.eq_of_toNat_eq
    have hlt := s.len.isLt
    rw [busReadData_len, lenWord, BitVec.extractLsb'_toNat, BitVec.toNat_setWidth_of_le (by decide),
      Nat.shiftRight_eq_div_pow, Nat.div_eq_of_lt hlt]
    rfl

-- The register map, read from the register to its offset

theorem eq_of_targetOf_ctrl {off : Offset} (h : targetOf off = .ctrl) : off = 0x000 := by
  simp only [targetOf] at h
  split_ifs at h
  bv_omega

theorem eq_of_targetOf_len {off : Offset} (h : targetOf off = .len) : off = 0x008 := by
  simp only [targetOf] at h
  split_ifs at h
  bv_omega

theorem eq_of_targetOf_id {off : Offset} (h : targetOf off = .id) : off = 0x010 := by
  simp only [targetOf] at h
  split_ifs at h
  bv_omega

/-- The PAYLOAD words fill the offsets 0x100 to 0x1FF (R41). -/
theorem targetOf_payload_iff {off : Offset} :
    (∃ w, targetOf off = .payload w) ↔ 0x100 ≤ off.toNat ∧ off.toNat < 0x200 := by
  constructor
  · rintro ⟨w, h⟩
    simp only [targetOf] at h
    split_ifs at h
    assumption
  · intro h
    refine ⟨(off.toNat - 0x100) / 4, ?_⟩
    unfold targetOf
    repeat rw [if_neg (by omega)]
    rw [if_pos h]

/-- A register of which no slot is set shows 0. -/
theorem bufferWord_zero (k w : Nat) : bufferWord k w 0#2048 = 0 := by
  simp [bufferWord]

/-- Settles O38: after reset every register but ID shows a field that is 0. -/
theorem resetState : Obligations.ResetState := by
  refine ⟨fun m => ⟨rfl, rfl, rfl, rfl, rfl, rfl, rfl, rfl, rfl, rfl, fun off _ hid => ?_⟩,
    busReadData_id_of_reference rfl⟩
  rw [busReadData_of_not_draws (readDraws_of_idle rfl)]
  cases ht : targetOf off with
  | id => exact absurd (eq_of_targetOf_id ht) hid
  | payload w => exact bufferWord_zero _ _
  | codeword w => exact bufferWord_zero _ _
  | ctrl => rfl
  | status => simp [targetWord, statusWord]
  | len => rfl
  | result => simp [targetWord, resultWord]
  | unmapped => rfl

end Sys2Proof.Machine
end

section
/-!
PROOFS. Who writes the STATUS flags and PEND (10_state.md, R30, R32): an accepted command, a dropped write, every other
transaction, the ENGINE's step; and from one trichotomy (`step_busy_pend_cases`) what every step keeps of BUSY and PEND.
-/

namespace Sys2Proof.Machine

-- What a transaction does to the flags

theorem SameFlags.refl (s : State) : SameFlags s s := ⟨rfl, rfl, rfl, rfl, rfl⟩

/-- A read leaves the block as it was (R45). -/
theorem busAccess_read_sameBlock {k : Nat} {off : Offset} {size : Nat} {s t : State}
    (h : busAccess k (.read off size) s = .next t) : SameBlock s t := by
  rw [busAccess_read] at h
  split at h
  · cases h
    exact afterRead_sameBlock off s
  · cases h

/-- An accepted CTRL write sets PEND, BUSY, DONE and ERR, and nothing else of the block (R111). -/
theorem busAccess_of_accepts {k : Nat} {tr : Transaction} {s : State} (h : AcceptsCommand s tr) :
    ∃ c, c ≠ 0#4 ∧ busAccess k tr s = .next ((s.accept c).observe k .ack) := by
  obtain ⟨v, rfl, hc, hb⟩ := h
  refine ⟨cmdField v, hc, ?_⟩
  rw [busAccess_write, if_pos (by decide), busWrite_ctrl, ctrlWrite_eq, if_neg hc, hb]
  rfl

/-- A dropped write sets OVR, and nothing else of the block (R112). -/
theorem busAccess_of_dropped {k : Nat} {tr : Transaction} {s : State} (h : IsDropped s tr) :
    busAccess k tr s = .next (s.dropWrite.observe k .ack) := by
  obtain ⟨off, v, rfl, hb, hoff⟩ := h
  have hdrop : off.toNat % 4 = 0 ∧ busWrite off v s = .next s.dropWrite := by
    rcases hoff with ⟨rfl, hc⟩ | rfl | ⟨hlo, hhi, h4⟩
    · exact ⟨rfl, by rw [busWrite_ctrl, ctrlWrite_eq, if_neg hc, if_pos hb]⟩
    · exact ⟨rfl, by rw [busWrite_len, if_pos hb]⟩
    · obtain ⟨w, hw⟩ := targetOf_payload_iff.2 ⟨hlo, hhi⟩
      exact ⟨h4, by simp [busWrite, hw, hb]⟩
  have hdef : accessDefined off 4 = true := by simp [accessDefined, hdrop.1]
  rw [busAccess_write, if_pos hdef, hdrop.2, afterNext_next]

/-- A defined write that is neither accepted nor dropped leaves STATUS and PEND alone. -/
theorem busWrite_sameFlags {off : Offset} {v : Word} {s t : State} (h4 : off.toNat % 4 = 0)
    (ha : ¬ AcceptsCommand s (.write off 4 v)) (hd : ¬ IsDropped s (.write off 4 v))
    (h : busWrite off v s = .next t) : SameFlags s t := by
  have idle_of : (off = 0x008 ∨ 0x100 ≤ off.toNat ∧ off.toNat < 0x200 ∧ off.toNat % 4 = 0) → ¬ s.busy = true :=
    fun hoff hb => hd ⟨off, v, rfl, hb, .inr hoff⟩
  cases ht : targetOf off with
  | ctrl =>
    obtain rfl := eq_of_targetOf_ctrl ht
    have hc : cmdField v = 0#4 := by
      by_contra hc
      cases hb : s.busy with
      | false => exact ha ⟨v, rfl, hc, hb⟩
      | true => exact hd ⟨_, v, rfl, hb, .inl ⟨rfl, hc⟩⟩
    rw [busWrite_ctrl, ctrlWrite_eq, if_pos hc] at h
    cases h
    exact SameFlags.refl s
  | len =>
    obtain rfl := eq_of_targetOf_len ht
    rw [busWrite_len, if_neg (idle_of (.inl rfl))] at h
    cases h
    exact SameFlags.refl s
  | payload w =>
    obtain ⟨hlo, hhi⟩ := targetOf_payload_iff.1 ⟨w, ht⟩
    simp only [busWrite, ht, if_neg (idle_of (.inr ⟨hlo, hhi, h4⟩))] at h
    cases h
    exact SameFlags.refl s
  | status | result | id | codeword | unmapped =>
    rw [busWrite_ignored v s (by simp [ht])] at h
    cases h
    exact SameFlags.refl s

/-- A transaction that is neither an accepted command nor a dropped write leaves STATUS and PEND alone. -/
theorem busAccess_sameFlags {k : Nat} {tr : Transaction} {s t : State} (ha : ¬ AcceptsCommand s tr)
    (hd : ¬ IsDropped s tr) (h : busAccess k tr s = .next t) : SameFlags s t := by
  cases tr with
  | read off size => exact (busAccess_read_sameBlock h).2.1
  | write off size v =>
    rw [busAccess_write] at h
    split at h
    next hdef =>
      simp only [accessDefined, Bool.and_eq_true, beq_iff_eq] at hdef
      obtain ⟨rfl, h4⟩ := hdef
      obtain ⟨u, hu, -⟩ := busWrite_cases off v s
      rw [hu] at h
      cases h
      exact busWrite_sameFlags (t := u) h4 ha hd hu
    next => cases h

/-- One read of a POLL leaves the block as it was (R45, R68). -/
theorem runLine_poll_sameBlock {k : Nat} {off : Offset} {mask val : Word} {ls : List Line} {s t : State}
    (h : runLine k (.poll off mask val) ls s = .next t) : SameBlock s t := by
  simp only [runLine] at h
  split at h
  · exact busAccess_read_sameBlock (s := s.setProgram k ls) h
  · exact busAccess_read_sameBlock h

-- The ENGINE's step

/-- The ENGINE performs the command that PEND holds (R110). -/
theorem engineTurn_of_pending {s : State} (hb : s.busy = true) (hp : s.pend ≠ 0#4) :
    engineTurn s = exec (decodeCode s.pend) s := by
  rw [engineTurn, if_pos hb, engineStep, if_neg hp]

/-- The ENGINE's step, when it goes on, performs the pending command on the block as it is (R110). -/
theorem exec_of_engineIsNext {s t : State} (he : EngineIsNext s) (h : step s = .next t) :
    s.pend ≠ 0#4 ∧ exec (decodeCode s.pend) (s.withTurns s.turns.tail) = .next t := by
  obtain ⟨hb, hturns⟩ := he
  have hstep : step s = engineTurn (s.withTurns s.turns.tail) := by
    rcases hturns with h0 | ⟨ts, hts⟩
    · have hs : s.withTurns s.turns.tail = s := by ext <;> simp [h0]
      rw [step_unscheduled h0, hs]
    · rw [step_engine hts, hts]; rfl
  have hp : s.pend ≠ 0#4 := by
    intro hp
    simp [hstep, engineTurn, engineStep, hb, hp] at h
  rw [hstep, engineTurn_of_pending (s := s.withTurns s.turns.tail) hb hp] at h
  exact ⟨hp, h⟩

/-- Every code from 4 up is a reserved command (R63). -/
theorem decodeCode_reserved {c : Code} (h : 4 ≤ c.toNat) :
    decodeCode c = .reserved47 c ∨ decodeCode c = .reserved8F c := by
  revert c; decide

/-- A reserved command completes with CMD_ERR (R115). -/
theorem exec_of_reserved {c : Code} (h : 4 ≤ c.toNat) (s : State) :
    exec (decodeCode c) s = .next (s.complete errCmd) := by
  rcases decodeCode_reserved h with hi | hi
  · rw [hi]; rfl
  · rw [hi]; rfl

/-- Settles O37, one lemma for each row of R32's table: reset, acceptance, a dropped write, every other access, the
ENGINE's step of each kind of command, and a poll. -/
theorem statusFlagWriters : Obligations.StatusFlagWriters := by
  refine ⟨?reset, ?access, ?engine, ?poll⟩
  case reset =>
    rintro s t ⟨ts, hts⟩ h
    rw [step_reset hts] at h
    cases h
    exact ⟨rfl, rfl, rfl, rfl⟩
  case access =>
    intro s t k tr ls ts ho h
    rw [step_offers_access ho] at h
    refine ⟨fun ha => ?_, fun hd => ?_, fun ha hd => ?_⟩
    · obtain ⟨c, -, hc⟩ := busAccess_of_accepts (k := k) (s := s.took k ls ts) ha
      rw [hc] at h
      cases h
      exact ⟨rfl, rfl, rfl, rfl⟩
    · rw [busAccess_of_dropped (s := s.took k ls ts) hd] at h
      cases h
      exact ⟨rfl, rfl, rfl, rfl⟩
    · obtain ⟨hbusy, hdone, hovr, herr, -⟩ := busAccess_sameFlags (s := s.took k ls ts) ha hd h
      exact ⟨hbusy, hdone, hovr, herr⟩
  case engine =>
    intro s t he h
    obtain ⟨hp, hx⟩ := exec_of_engineIsNext he h
    obtain ⟨hbusy, hdone, -⟩ := exec_completes (mt (decodeCode_eq_nop_iff _).1 hp) hx
    refine ⟨hbusy, hdone, fun hc => ?_, fun hc => ?_, fun hc => ?_⟩
    · have hi : decodeCode s.pend = .plan ∨ decodeCode s.pend = .encode := by
        rcases hc with hc | hc
        · exact .inl (by rw [hc]; decide)
        · exact .inr (by rw [hc]; decide)
      exact exec_lengthCommand_flags (s := s.withTurns s.turns.tail) hi hx
    · rw [hc] at hx
      cases hx
      exact ⟨rfl, rfl⟩
    · rw [exec_of_reserved hc] at hx
      cases hx
      exact ⟨rfl, rfl⟩
  case poll =>
    intro s t k off mask val ls ts ho h
    rw [step_offers ho] at h
    exact (runLine_poll_sameBlock (s := s.withTurns ts) h).2.1

-- What a step does to BUSY and PEND

/-- One event leaves BUSY and PEND as they were, ends the command, or accepts one in an idle block. -/
theorem BlockEvent.busy_pend_cases {s t : State} (h : BlockEvent s t) :
    (t.busy = s.busy ∧ t.pend = s.pend) ∨ (t.busy = false ∧ t.pend = 0#4) ∨
      (s.busy = false ∧ t.busy = true ∧ t.pend ≠ 0#4) := by
  cases h with
  | none h => subst h; exact .inl ⟨rfl, rfl⟩
  | reset h => subst h; exact .inr (.inl ⟨rfl, rfl⟩)
  | engine hb hp h =>
    obtain ⟨hbusy, -, hpend⟩ := exec_completes (mt (decodeCode_eq_nop_iff _).1 hp) h
    exact .inr (.inl ⟨hbusy, hpend⟩)
  | dropped hb h => subst h; exact .inl ⟨rfl, rfl⟩
  | accepted hb c hc h => subst h; exact .inr (.inr ⟨hb, rfl, hc⟩)
  | lenWritten hb v h => subst h; exact .inl ⟨rfl, rfl⟩
  | payloadWritten hb w v h => subst h; exact .inl ⟨rfl, rfl⟩

/-- A step that goes on is one event of the block, between states that show the same block. -/
theorem blockEvent_of_step {s t : State} (h : step s = .next t) :
    ∃ v w, SameBlock s v ∧ BlockEvent v w ∧ SameBlock w t := by
  rcases step_cases s with ⟨tr, d, hf⟩ | ⟨-, -, hf⟩ | ⟨v, w, u, hu, hv, hw, hwu⟩
  · simp [hf] at h
  · simp [hf] at h
  · rw [hu] at h
    cases h
    exact ⟨v, w, hv, hw, hwu⟩

/-- `BlockEvent.busy_pend_cases` for a whole step. -/
theorem step_busy_pend_cases {s t : State} (h : step s = .next t) :
    (t.busy = s.busy ∧ t.pend = s.pend) ∨ (t.busy = false ∧ t.pend = 0#4) ∨
      (s.busy = false ∧ t.busy = true ∧ t.pend ≠ 0#4) := by
  obtain ⟨v, w, ⟨-, ⟨hvb, -, -, -, hvp⟩, -⟩, he, ⟨-, ⟨htb, -, -, -, htp⟩, -⟩⟩ := blockEvent_of_step h
  rw [htb, htp, ← hvb, ← hvp]
  exact he.busy_pend_cases

theorem toNat_cmdField (v : Word) : (cmdField v).toNat = v.toNat % 16 := by
  simp [cmdField, BitVec.extractLsb'_toNat]

/-- Settles O40: acceptance stores the code, the ENGINE reads it, no register shows it, and
`step_busy_pend_cases` gives what every step keeps. -/
theorem pendFollowsBusy : Obligations.PendFollowsBusy := by
  refine ⟨?stored, fun s => engineTurn_of_pending, ?hidden, ?agree, ?held, rfl, rfl⟩
  case stored =>
    intro s v hv hb
    have hne : cmdField v ≠ 0#4 := by
      intro h0
      rw [← toNat_cmdField, h0] at hv
      exact hv rfl
    exact ⟨s.accept (cmdField v), by rw [ctrlWrite_eq, if_neg hne, hb]; rfl, toNat_cmdField v⟩
  case hidden =>
    intro s c off
    have hword : ∀ x, targetWord { s with pend := c } x = targetWord s x := by
      intro x
      cases x <;> rfl
    rw [busReadData, hword]
    rfl
  case agree =>
    intro s t hs h
    rcases step_busy_pend_cases h with ⟨hb, hp⟩ | ⟨hb, hp⟩ | ⟨-, hb, hp⟩
    · rw [hb, hp, hs]
    · simp [hb, hp]
    · simp [hb, hp]
  case held =>
    intro s t h hs ht
    rcases step_busy_pend_cases h with ⟨-, hp⟩ | ⟨hb, -⟩ | ⟨hb, -⟩
    · exact hp
    · simp [hb] at ht
    · simp [hb] at hs

end Sys2Proof.Machine
end

section
/-!
PROOFS. The register window (20_memory.md): unmapped offsets (R43), and what a pending command's operands go through
before its ENGINE step (R50). A host's turn in a busy block can do nothing but set OVR (`hostTurn_of_busy`); the statement
about any number of host events is an induction over these turns.
-/

namespace Sys2Proof.Machine

/-- Settles O26: no register stands at the offset, so the read is no draw and shows 0, and the write is ignored. -/
theorem unmappedOffsetsReadZeroAndIgnoreWrites : Obligations.UnmappedOffsetsReadZeroAndIgnoreWrites := by
  intro s off v h4 hoff
  have ht : targetOf off = .unmapped := targetOf_unmapped h4 hoff
  constructor
  · rw [busReadData_of_not_draws (readDraws_of_not_result (by rw [ht]; rfl)), ht]
    rfl
  · exact busWrite_ignored v s (by simp [ht])

-- Host events while a command is pending

/-- The command pending in `s` is still pending in `t`, with the same operands and the same schedule before it. -/
abbrev KeepsPending (s t : State) : Prop :=
  t.busy = true ∧ t.pend = s.pend ∧ SameData s t ∧ t.mMax = s.mMax ∧ t.turns = s.turns

theorem KeepsPending.refl {s : State} (hb : s.busy = true) : KeepsPending s s :=
  ⟨hb, rfl, ⟨rfl, rfl, rfl, rfl, rfl⟩, rfl, rfl⟩

theorem KeepsPending.trans {s t u : State} (h1 : KeepsPending s t) (h2 : KeepsPending t u) : KeepsPending s u := by
  obtain ⟨-, hp1, ⟨hl1, hpay1, hc1, hn1, hr1⟩, hm1, ht1⟩ := h1
  obtain ⟨hb2, hp2, ⟨hl2, hpay2, hc2, hn2, hr2⟩, hm2, ht2⟩ := h2
  exact ⟨hb2, hp2.trans hp1, ⟨hl2.trans hl1, hpay2.trans hpay1, hc2.trans hc1, hn2.trans hn1, hr2.trans hr1⟩,
    hm2.trans hm1, ht2.trans ht1⟩

/-- Nothing of the pending command stands in the schedule. -/
theorem KeepsPending.withTurns {s t : State} (h : KeepsPending s t) (ts : List Turn) :
    KeepsPending (s.withTurns ts) (t.withTurns ts) := by
  obtain ⟨hb, hp, hdata, hm, -⟩ := h
  exact ⟨hb, hp, hdata, hm, rfl⟩

/-- A write while BUSY = 1 can do nothing but set OVR (R112, R117). -/
theorem busWrite_of_busy {off : Offset} {v : Word} {s t : State} (hb : s.busy = true)
    (h : busWrite off v s = .next t) : t = s ∨ t = s.dropWrite := by
  obtain ⟨u, hu, hcases⟩ := busWrite_cases off v s
  rw [hu] at h
  cases h
  simpa [hb] using hcases

/-- A transaction while BUSY = 1 reads, sets OVR or is ignored; none of these touches the pending command (R50). -/
theorem busAccess_of_busy {k : Nat} {tr : Transaction} {s t : State} (hb : s.busy = true)
    (h : busAccess k tr s = .next t) : KeepsPending s t := by
  cases tr with
  | read off size =>
    obtain ⟨hdata, ⟨hbusy, -, -, -, hpend⟩, hmax⟩ := busAccess_read_sameBlock h
    refine ⟨hbusy.trans hb, hpend, hdata, hmax, ?_⟩
    rw [busAccess_read] at h
    split at h
    · cases h
      unfold afterRead
      split <;> rfl
    · cases h
  | write off size v =>
    rw [busAccess_write] at h
    split at h
    · obtain ⟨u, hu, -⟩ := busWrite_cases off v s
      rw [hu] at h
      cases h
      rcases busWrite_of_busy hb hu with rfl | rfl
      · exact KeepsPending.refl hb
      · exact KeepsPending.refl hb
    · cases h

theorem runLine_of_busy {k : Nat} {l : Line} {ls : List Line} {s t : State} (hb : s.busy = true)
    (h : runLine k l ls s = .next t) : KeepsPending s t := by
  cases l with
  | access tr => exact busAccess_of_busy (s := s.setProgram k ls) hb h
  | poll off mask val =>
    simp only [runLine] at h
    split at h
    · exact busAccess_of_busy (s := s.setProgram k ls) hb h
    · exact busAccess_of_busy hb h

theorem hostTurn_of_busy {k : Nat} {s t : State} (hb : s.busy = true) (h : hostTurn k s = .next t) :
    KeepsPending s t := by
  unfold hostTurn at h
  split at h
  · exact runLine_of_busy hb h
  · cases h
    exact KeepsPending.refl hb

/-- The step when host `k` has the next turn. -/
theorem step_host {s : State} {k : Nat} {ts : List Turn} (h : s.turns = .host k :: ts) :
    step s = hostTurn k (s.withTurns ts) := by
  simp [step, nextEvent, h, runTurn]

/-- A host's event in a busy block takes its turn from the schedule and leaves the pending command alone (R50). -/
theorem step_host_of_busy {s t : State} {k : Nat} {ts : List Turn} (hturns : s.turns = .host k :: ts)
    (hb : s.busy = true) (h : step s = .next t) : KeepsPending (s.withTurns ts) t :=
  hostTurn_of_busy (s := s.withTurns ts) hb (step_host hturns ▸ h)

/-- A run of `n + 1` steps that goes on is one step and a run of `n` steps from there. -/
theorem run_succ_next {M : Host.Core} {n : Nat} {s t : M.State} (h : M.run (n + 1) s = .next t) :
    ∃ u, M.step s = .next u ∧ M.run n u = .next t := by
  rw [Host.Core.run] at h
  split at h
  next u hu => exact ⟨u, hu, h⟩
  next => cases h
  next => cases h

/-- `step_host_of_busy` for any number of host events: the schedule moves on, and nothing else of the pending command
changes. -/
theorem run_hosts_of_busy {n : Nat} {s t : State} (hb : s.busy = true) (hn : n ≤ s.turns.length)
    (hhosts : ∀ x ∈ s.turns.take n, ∃ k, x = .host k) (h : Host.Core.run core n s = .next t) :
    KeepsPending (s.withTurns (s.turns.drop n)) t := by
  induction n generalizing s with
  | zero =>
    cases h
    exact KeepsPending.refl hb
  | succ n ih =>
    obtain ⟨x, ts, hturns⟩ := List.exists_cons_of_length_pos (show 0 < s.turns.length by omega)
    rw [hturns] at hn hhosts ⊢
    obtain ⟨k, rfl⟩ := hhosts x (by simp)
    obtain ⟨u, hu, hrun⟩ := run_succ_next h
    have hfirst : KeepsPending (s.withTurns ts) u := step_host_of_busy hturns hb hu
    have ⟨hbu, _, _, _, hts⟩ := hfirst
    obtain rfl : u.turns = ts := hts
    have hrest : KeepsPending (u.withTurns (u.turns.drop n)) t :=
      ih hbu (Nat.le_of_succ_le_succ hn) (fun y hy => hhosts y (List.mem_cons_of_mem _ hy)) hrun
    exact (hfirst.withTurns _).trans hrest

/-- No command but CLEAR writes LEN or PAYLOAD (R50). -/
theorem exec_keeps_operands {i : Instr} {s t : State} (h : exec i s = .next t) (hi : i ≠ .clear) :
    t.len = s.len ∧ t.pay = s.pay := by
  rcases exec_cases h with ⟨-, rfl⟩ | ⟨-, -, rfl⟩ | ⟨-, -, rfl⟩ | ⟨-, -, rfl⟩ | ⟨rfl, -⟩ | ⟨-, rfl⟩
  case inr.inr.inr.inr.inl => exact absurd rfl hi
  all_goals exact ⟨rfl, rfl⟩

/-- Settles O42, by induction on the number of host events (`run_hosts_of_busy`) and the cases of a command. -/
theorem pendingOperandsAreStable : Obligations.PendingOperandsAreStable :=
  ⟨fun _ _ _ hb hn hhosts h => run_hosts_of_busy hb hn hhosts h, fun _ _ _ h hi => exec_keeps_operands h hi⟩

end Sys2Proof.Machine
end

section
/-!
PROOFS. The encoding of commands (30_encoding.md): CMD, bits 3:0 of the word, is all that decoding and a write to CTRL
look at, and CMD = 0 is the only encoding without effect (R65).
-/

namespace Sys2Proof.Machine

/-- Decoding loses nothing of CMD and looks at nothing else: `decodeCode` has a left inverse, `Instr.code`. -/
theorem decodeCmd_eq_iff {v w : Word} : decodeCmd v = decodeCmd w ↔ cmdField v = cmdField w := by
  rw [decodeCmd_eq_decodeCode v, decodeCmd_eq_decodeCode w]
  exact (Function.LeftInverse.injective code_decodeCode).eq_iff

theorem cmdField_eq_iff {v w : Word} : cmdField v = cmdField w ↔ v.toNat % 16 = w.toNat % 16 := by
  rw [← BitVec.toNat_inj, toNat_cmdField, toNat_cmdField]

theorem cmdField_eq_zero_iff {v : Word} : cmdField v = 0#4 ↔ v.toNat % 16 = 0 :=
  cmdField_eq_iff (w := 0)

/-- A write to CTRL that an idle block does not notice is a NOP: any other command is accepted and raises BUSY. -/
theorem cmdField_eq_zero_of_ctrlWrite_idle {v : Word} {s : State} (hb : s.busy = false)
    (h : ctrlWrite v s = .next s) : cmdField v = 0#4 := by
  by_contra hc
  have haccept : s.accept (cmdField v) = s := by simpa [ctrlWrite_eq, hc, hb] using h
  have hbusy : (s.accept (cmdField v)).busy = true := rfl
  rw [haccept, hb] at hbusy
  exact Bool.noConfusion hbusy

/-- Settles O3: words decode by CMD alone (`decodeCmd_eq_iff`), and a command other than NOP has an effect on the block
just reset, which is idle. -/
theorem onlyCmdSelectsTheCommand : Obligations.OnlyCmdSelectsTheCommand := by
  refine ⟨fun v w => decodeCmd_eq_iff.trans cmdField_eq_iff, fun v => ⟨fun h => ?_, fun hv s => ?_⟩⟩
  · exact cmdField_eq_zero_iff.1 (cmdField_eq_zero_of_ctrlWrite_idle (s := State.reset) rfl (h _))
  · rw [ctrlWrite_eq, if_pos (cmdField_eq_zero_iff.2 hv)]

end Sys2Proof.Machine
end

section
/-!
PROOFS. The properties of the parity count (R80 to R82). The lower and the upper end of each range are `plan_le_iff` at
two neighbouring r; the bounds by m need one inequality between a length and a power of two.
-/

namespace Sys2Proof.Machine

/-- Settles O5: the two halves of `plan_le_iff`, and the existence bound on which the search rests. -/
theorem planIsTheLeastParityCount : Obligations.PlanIsTheLeastParityCount :=
  fun m => ⟨⟨parityFits_plan m, fun _ hr => plan_le_iff.2 hr⟩, parityFits_succ_self m⟩

/-- `plan_le_iff` from the other side: the r below `plan m` are those that break the inequality of R80. -/
theorem lt_plan_iff {m r : Nat} : r < plan m ↔ 2 ^ r < m + r + 1 := by
  rw [← Nat.not_le, plan_le_iff, Nat.not_le]

/-- The range of lengths with a given positive parity count, the closed form that ends R81. -/
theorem plan_eq_iff_of_pos {m r : Nat} (hr : 0 < r) :
    plan m = r ↔ 2 ^ (r - 1) + 1 ≤ m + r ∧ m + r + 1 ≤ 2 ^ r :=
  calc plan m = r ↔ r - 1 < plan m ∧ plan m ≤ r := by omega
    _ ↔ 2 ^ (r - 1) + 1 ≤ m + r ∧ m + r + 1 ≤ 2 ^ r := by rw [lt_plan_iff, plan_le_iff]; omega

/-- The empty payload needs no parity bit (R82). -/
theorem plan_eq_zero_iff {m : Nat} : plan m = 0 ↔ m = 0 := by
  rw [← Nat.le_zero, plan_le_iff]
  omega

/-- No length has just one parity bit: the row r = 1 of R81's table is empty. -/
theorem plan_ne_one (m : Nat) : plan m ≠ 1 := by
  intro h
  have hrange := (plan_eq_iff_of_pos Nat.one_pos).1 h
  omega

theorem two_le_plan {m : Nat} (h : 1 ≤ m) : 2 ≤ plan m :=
  lt_plan_iff.2 (show 2 ^ 1 < m + 1 + 1 by omega)

/-- The inequality of R80 for m = k + 1 and r = k: from m = 4 on, r = m - 1 meets it. -/
theorem parityFits_pred {k : Nat} (h : 3 ≤ k) : k + 1 + k + 1 ≤ 2 ^ k := by
  induction k, h using Nat.le_induction with
  | base => decide
  | succ k _ ih => rw [pow_succ]; omega

theorem plan_lt_self {m : Nat} (h : 4 ≤ m) : plan m < m := by
  obtain ⟨k, rfl⟩ := Nat.exists_eq_add_of_le' (show 1 ≤ m by omega)
  exact Nat.lt_succ_of_le (plan_le_iff.2 (parityFits_pred (by omega)))

theorem plan_le_self {m : Nat} (h : 3 ≤ m) : plan m ≤ m :=
  plan_le_iff.2 (by have hfits := parityFits_pred h; omega)

/-- Settles O6: minimality and the ranges are `plan_le_iff` at r and at r - 1, and the bounds are `plan_le_iff` at the
bound itself. -/
theorem planProperties : Obligations.PlanProperties := by
  refine ⟨?minimality, ?bounds, fun _ _ => plan_mono, fun _ => two_le_plan,
    fun m => ⟨plan_eq_zero_iff, plan_ne_one m⟩, ?range, ?lengths, rfl⟩
  case minimality =>
    refine fun m => ⟨parityFits_plan m, fun hpos => ?_⟩
    have hlast : 2 ^ (plan m - 1) < m + (plan m - 1) + 1 := lt_plan_iff.1 (by omega)
    omega
  case bounds => exact fun m => ⟨plan_le_iff.2 (parityFits_succ_self m), plan_le_self, plan_lt_self⟩
  case range => exact fun m r hr => plan_eq_iff_of_pos (by omega)
  case lengths =>
    intro m r hr hplan
    obtain ⟨hlo, hhi⟩ := (plan_eq_iff_of_pos (by omega)).1 hplan
    rw [codewordLength, hplan]
    omega

end Sys2Proof.Machine
end

section
/-!
PROOFS. The command PLAN (R84). Its two outcomes are `execPlan_of_fits` and `execPlan_of_not_fits`; that RESULT's fields
hold the counts without loss (`toNat_writeResult`) and what word a read of RESULT shows (`toNat_resultWord`) give the
rows of corner cases.
-/

namespace Sys2Proof.Machine

/-- RESULT's fields hold the counts of every accepted length without loss (R12, R120). -/
theorem toNat_writeResult {s : State} {m : Nat} (h : m ≤ s.mMax.val) :
    (s.writeResult m).resR.toNat = plan m ∧ (s.writeResult m).resN.toNat = m + plan m := by
  have hr : plan m ≤ 11 := (plan_mono h).trans s.rMax_le
  have hn : codewordLength m ≤ 2047 := (codewordLength_mono h).trans s.nMax_le
  constructor
  · exact Nat.mod_eq_of_lt (by omega)
  · exact Nat.mod_eq_of_lt (by omega)

/-- The fields of RESULT do not overlap, so the word is their sum (R26). -/
theorem toNat_resultWord (s : State) : (resultWord s).toNat = s.resR.toNat * 2 ^ 16 + s.resN.toNat := by
  have hr := s.resR.isLt
  have hn := s.resN.isLt
  rw [resultWord, BitVec.toNat_or, BitVec.toNat_shiftLeft, BitVec.toNat_setWidth_of_le (by decide),
    BitVec.toNat_setWidth_of_le (by decide), Nat.mod_eq_of_lt (by omega),
    ← Nat.shiftLeft_add_eq_or_of_lt (by omega), Nat.shiftLeft_eq]

theorem resultWord_eq_ofNat (s : State) : resultWord s = BitVec.ofNat 32 (s.resR.toNat * 2 ^ 16 + s.resN.toNat) := by
  rw [← toNat_resultWord, BitVec.ofNat_toNat, BitVec.setWidth_eq]

/-- A read of RESULT in an idle block (R26). -/
theorem busReadData_result {s : State} (h : s.busy = false) : busReadData 0x00C s = resultWord s :=
  busReadData_of_not_draws (readDraws_of_idle h)

theorem exec_plan_of_le {s : State} (h : s.len.toNat ≤ s.mMax.val) :
    exec .plan s = .next ((s.writeResult s.len.toNat).complete errOk) :=
  execPlan_of_fits (s.lenFits_iff.2 h)

theorem exec_plan_of_lt {s : State} (h : s.mMax.val < s.len.toNat) : exec .plan s = .next (s.complete errPlan) :=
  execPlan_of_not_fits (Bool.eq_false_iff.2 fun hf => Nat.not_le.2 h (s.lenFits_iff.1 hf))

/-- PLAN and the contents of PAYLOAD do not interfere: they are neither read nor written (R84). -/
theorem exec_plan_of_pay {s t : State} (p : Buffer) (h : exec .plan s = .next t) :
    exec .plan { s with pay := p } = .next { t with pay := p } := by
  rcases le_or_gt s.len.toNat s.mMax.val with hle | hlt
  · rw [exec_plan_of_le hle] at h
    cases h
    exact exec_plan_of_le (s := { s with pay := p }) hle
  · rw [exec_plan_of_lt hlt] at h
    cases h
    exact exec_plan_of_lt (s := { s with pay := p }) hlt

/-- What a host reads from RESULT after a PLAN of an accepted length (R26, R84). -/
theorem busReadData_result_of_plan {s t : State} {m r : Nat} (h : exec .plan s = .next t) (hlen : s.len.toNat = m)
    (hm : m ≤ s.mMax.val) (hr : plan m = r) : busReadData 0x00C t = BitVec.ofNat 32 (r * 2 ^ 16 + (m + r)) := by
  subst hlen hr
  obtain ⟨hR, hN⟩ := toNat_writeResult hm
  rw [exec_plan_of_le hm] at h
  cases h
  rw [busReadData_result rfl, ← hN, ← hR]
  exact resultWord_eq_ofNat _

theorem decodeCmd_eq_plan_iff {v : Word} : decodeCmd v = .plan ↔ v.toNat % 16 = 1 := by
  have hone : decodeCmd 0x1 = .plan := by decide
  rw [← hone, decodeCmd_eq_iff, cmdField_eq_iff]
  rfl

/-- Settles O15: one lemma for each outcome of PLAN, and one (`busReadData_result_of_plan`) for the rows of RESULT. -/
theorem planCommandEffect : Obligations.PlanCommandEffect := by
  refine ⟨fun _ => decodeCmd_eq_plan_iff, fun s hle => ?_, fun s => exec_plan_of_lt,
    fun s t p => exec_plan_of_pay p, fun s t h => ?_⟩
  · obtain ⟨hR, hN⟩ := toNat_writeResult hle
    exact ⟨_, exec_plan_of_le hle, hR, hN, rfl⟩
  · obtain ⟨-, herr⟩ := exec_lengthCommand_flags (.inl rfl) h
    refine ⟨fun hlen => busReadData_result_of_plan h hlen (Nat.zero_le _) rfl,
      fun hlen hm => busReadData_result_of_plan h hlen hm rfl,
      fun hlen hm => busReadData_result_of_plan h hlen hm rfl,
      fun hlen hm => busReadData_result_of_plan h hlen hm rfl,
      fun hlen hm => busReadData_result_of_plan h hlen hm.ge plan_mMaxBound, fun hlen => ?_, fun hlen => ?_⟩
    · rw [herr, if_pos hlen.le]
    · rw [herr, if_neg (by omega)]

end Sys2Proof.Machine
end

section
/-!
PROOFS. The positions of a codeword (R10, R13, R92). Parity positions are the powers of two; how many of 1..b
they are is the binary size of b (`dataCount_add_size`), and the binary size of a codeword length is its parity count.
-/

namespace Sys2Proof.Machine

-- Parity positions and coverage sets

/-- The test of R10 picks the powers of two out of the positions. -/
theorem isPow2_iff {i : Nat} (hi : i ≠ 0) : isPow2 i = true ↔ ∃ k, i = 2 ^ k := by
  rw [isPow2, beq_iff_eq]
  exact Nat.and_sub_one_eq_zero_iff_isPowerOfTwo hi

@[simp] theorem isPow2_two_pow (k : Nat) : isPow2 (2 ^ k) = true :=
  (isPow2_iff (Nat.two_pow_pos k).ne').2 ⟨k, rfl⟩

/-- Slot 2^k - 1 of a codeword is position 2^k. -/
@[simp] theorem two_pow_sub_one_add_one (k : Nat) : 2 ^ k - 1 + 1 = 2 ^ k := Nat.sub_add_cancel Nat.one_le_two_pow

theorem isPow2_paritySlot (k : Nat) : isPow2 (1 + (2 ^ k - 1)) = true := by
  rw [Nat.add_comm, two_pow_sub_one_add_one, isPow2_two_pow]

theorem ne_two_pow_of_data {i : Nat} (h : isPow2 i = false) (k : Nat) : i ≠ 2 ^ k := by
  rintro rfl
  simp at h

theorem covered_eq_testBit (k t : Nat) : covered k t = t.testBit k := by
  rw [covered, Nat.and_two_pow]
  cases t.testBit k <;> simp

/-- Of the parity positions, 2^k is the only one in the coverage set of 2^k (R97). -/
theorem covered_two_pow (k l : Nat) : covered k (2 ^ l) = decide (l = k) := by
  rw [covered_eq_testBit, Nat.testBit_two_pow]

/-- A coverage set is its parity position and the data positions in it. -/
theorem covered_eq_xor {t : Nat} (ht : t ≠ 0) (k : Nat) :
    covered k t = ((!isPow2 t && covered k t) ^^ t == 2 ^ k) := by
  cases hp : isPow2 t with
  | false => simp [beq_false_of_ne (ne_two_pow_of_data hp k)]
  | true =>
    obtain ⟨l, rfl⟩ := (isPow2_iff ht).1 hp
    simp [covered_two_pow, beq_eq_decide]

-- How many positions are data positions

/-- The number of data positions among the `count` positions from `i` on. -/
def dataCount (i count : Nat) : Nat := (List.range' i count).countP fun t => !isPow2 t

/-- The count from the front, as the walk of R90 goes. -/
theorem dataCount_succ (i count : Nat) :
    dataCount i (count + 1) = dataCount (i + 1) count + if isPow2 i then 0 else 1 := by
  cases hi : isPow2 i <;> simp [dataCount, List.range'_succ, hi]

/-- The count from the back. -/
theorem dataCount_succ_last (i count : Nat) :
    dataCount i (count + 1) = dataCount i count + if isPow2 (i + count) then 0 else 1 := by
  cases hi : isPow2 (i + count) <;> simp [dataCount, List.range'_1_concat, hi]

theorem dataCount_mono (i : Nat) {a b : Nat} (h : a ≤ b) : dataCount i a ≤ dataCount i b :=
  (List.range'_sublist_right.2 h).countP_le

/-- The binary size grows exactly at the powers of two. -/
theorem size_succ_eq (b : Nat) : (b + 1).size = b.size + if isPow2 (b + 1) then 1 else 0 := by
  split
  next hp =>
    obtain ⟨k, hk⟩ := (isPow2_iff (Nat.add_one_ne_zero b)).1 hp
    have hlt := b.lt_size_self
    have hge : k ≤ b.size := (Nat.pow_le_pow_iff_right Nat.one_lt_two).1 (by omega)
    have hb : b.size = k := le_antisymm (Nat.size_le.2 (by omega)) hge
    rw [hk, Nat.size_pow, hb]
  next hp =>
    have hne : b + 1 ≠ 2 ^ b.size := ne_two_pow_of_data (Bool.eq_false_iff.2 hp) _
    have hlt := b.lt_size_self
    have hle : (b + 1).size ≤ b.size := Nat.size_le.2 (by omega)
    exact le_antisymm hle (Nat.size_le_size b.le_succ)

/-- Of the positions 1..b, all but `b.size` are data positions. -/
theorem dataCount_add_size (b : Nat) : dataCount 1 b + b.size = b := by
  induction b with
  | zero => rfl
  | succ b ih =>
    rw [dataCount_succ_last, size_succ_eq, Nat.add_comm 1 b]
    split <;> omega

/-- The parity positions that a codeword has are those of k below its parity count (R92). -/
theorem two_pow_le_codewordLength_iff {m k : Nat} : 2 ^ k ≤ codewordLength m ↔ k < plan m := by
  rw [codewordLength]
  constructor
  · intro h
    have hfits := parityFits_plan m
    exact (Nat.pow_lt_pow_iff_right Nat.one_lt_two).1 (by omega)
  · intro h
    have hlt := lt_plan_iff.1 h
    omega

theorem size_codewordLength (m : Nat) : (codewordLength m).size = plan m :=
  eq_of_forall_lt_iff fun _ => by rw [Nat.lt_size, two_pow_le_codewordLength_iff]

/-- The postcondition of step 3 of R90: a codeword has as many data positions as there are payload bits. -/
theorem dataCount_codewordLength (m : Nat) : dataCount 1 (codewordLength m) = m := by
  have h := dataCount_add_size (codewordLength m)
  rw [size_codewordLength, codewordLength] at h
  exact Nat.add_right_cancel h

/-- The number of data positions before the data position b + 1, the closed form's index into the payload (R92). -/
theorem dataCount_before {b : Nat} (h : isPow2 (b + 1) = false) : dataCount 1 b + Nat.log2 (b + 1) + 1 = b := by
  have hne : b + 1 ≠ 2 ^ (b + 1).log2 := ne_two_pow_of_data h _
  have hlo := Nat.log2_self_le (Nat.add_one_ne_zero b)
  have hhi := Nat.lt_log2_self (n := b + 1)
  have hsize : b.size = (b + 1).log2 + 1 :=
    le_antisymm (Nat.size_le.2 (by omega)) (Nat.lt_size.2 (by omega))
  rw [Nat.add_assoc, ← hsize, dataCount_add_size]

end Sys2Proof.Machine
end

section
/-!
PROOFS. The walk of R90's step 3: what it puts at each position, and that reading the data positions gives the payload
back (R92, R96).
-/

namespace Sys2Proof.Machine

@[simp] theorem length_placeData (count i : Nat) (p : List Bool) : (placeData count i p).length = count := by
  induction count generalizing i p with
  | zero => rfl
  | succ count ih => rw [placeData]; split <;> simp [ih]

/-- A parity position holds the placeholder 0. -/
theorem getD_placeData_of_parity {count i b : Nat} {p : List Bool} (h : isPow2 (i + b) = true) :
    (placeData count i p).getD b false = false := by
  induction count generalizing i p b with
  | zero => rfl
  | succ count ih =>
    cases b with
    | zero => simp [placeData, show isPow2 i = true from h]
    | succ b =>
      have hrest : isPow2 (i + 1 + b) = true := by rwa [Nat.add_right_comm]
      rw [placeData]
      split <;> rw [List.getD_cons_succ, ih hrest]

/-- A data position holds the payload bit whose number is that of the data positions before it. -/
theorem getD_placeData_of_data {count i b : Nat} {p : List Bool} (hb : b < count) (h : isPow2 (i + b) = false) :
    (placeData count i p).getD b false = p.getD (dataCount i b) false := by
  induction count generalizing i p b with
  | zero => omega
  | succ count ih =>
    cases b with
    | zero => cases p <;> simp [placeData, show isPow2 i = false from h, dataCount]
    | succ b =>
      have hrest : isPow2 (i + 1 + b) = false := by rwa [Nat.add_right_comm]
      rw [placeData, dataCount_succ]
      split
      · rw [List.getD_cons_succ, ih (by omega) hrest]; rfl
      · rw [List.getD_cons_succ, ih (by omega) hrest]; cases p <;> rfl

/-- Reading back a walk that meets as many data positions as there are payload bits. -/
theorem extractFrom_placeData {count i : Nat} {p : List Bool} (h : dataCount i count = p.length) :
    extractFrom i (placeData count i p) = p := by
  induction count generalizing i p with
  | zero => exact (List.length_eq_zero_iff.1 h.symm).symm
  | succ count ih =>
    rw [dataCount_succ] at h
    cases hi : isPow2 i with
    | true => simpa [placeData, extractFrom, hi] using ih (by simpa [hi] using h)
    | false =>
      cases p with
      | nil => simp [hi] at h
      | cons x p => simpa [placeData, extractFrom, hi] using ih (by simpa [hi] using h)

/-- The bit at a parity position does not matter to the data read back. -/
theorem extractFrom_set_of_parity {i j : Nat} (h : isPow2 (i + j) = true) (c : List Bool) (v : Bool) :
    extractFrom i (c.set j v) = extractFrom i c := by
  induction c generalizing i j with
  | nil => rfl
  | cons b c ih =>
    cases j with
    | zero => simp [extractFrom, show isPow2 i = true from h]
    | succ j => simp only [List.set_cons_succ, extractFrom, ih (i := i + 1) (by rwa [Nat.add_right_comm])]

end Sys2Proof.Machine
end

section
/-!
PROOFS. The XOR over positions, and the parity bits (R93, R97, R98). A turn of R90's step 4 adds to one bit the XOR of
the data positions it covers (`setParity_eq`), and that XOR is the same before and after every turn. So the turns
commute (`setParity_comm`), any of them may be taken last, and the last one finds its own placeholder still 0.
-/

namespace Sys2Proof.Machine

-- The XOR over positions

theorem positionXor_cons (f : Nat → Bool) (b : Bool) (c : List Bool) :
    positionXor f (b :: c) = ((f 1 && b) ^^ positionXor (fun t => f (t + 1)) c) := by
  simp [positionXor, List.range_succ_eq_map, Function.comp_def]

/-- The XOR reads the bits at the positions picked, and nothing else. -/
theorem positionXor_congr {f g : Nat → Bool} {c d : List Bool} (hlen : c.length = d.length)
    (h : ∀ b, (f (b + 1) && c.getD b false) = (g (b + 1) && d.getD b false)) : positionXor f c = positionXor g d := by
  unfold positionXor
  rw [hlen, List.map_congr_left fun b _ => h b]

theorem positionXor_xor (f g : Nat → Bool) (c : List Bool) :
    positionXor (fun t => f t ^^ g t) c = (positionXor f c ^^ positionXor g c) := by
  induction c generalizing f g with
  | nil => rfl
  | cons b c ih =>
    rw [positionXor_cons, positionXor_cons, positionXor_cons, ih, Bool.and_xor_distrib_right]
    simp only [Bool.xor_assoc, Bool.xor_left_comm]

theorem positionXor_false (c : List Bool) : positionXor (fun _ => false) c = false := by
  induction c with
  | nil => rfl
  | cons b c ih => rw [positionXor_cons, ih]; rfl

/-- The XOR over one position is its bit. -/
theorem positionXor_single (j : Nat) (c : List Bool) : positionXor (fun t => t == j + 1) c = c.getD j false := by
  induction c generalizing j with
  | nil => rfl
  | cons b c ih =>
    rw [positionXor_cons]
    cases j with
    | zero =>
      have hrest : positionXor (fun t => t + 1 == 0 + 1) c = positionXor (fun _ => false) c :=
        positionXor_congr rfl fun _ => rfl
      rw [hrest, positionXor_false]
      simp
    | succ j => simp [ih]

/-- The walk of R93 computes the XOR over the coverage set. -/
theorem coverageXor_eq (k t : Nat) (c : List Bool) :
    coverageXor k (t + 1) c = positionXor (fun s => covered k (s + t)) c := by
  induction c generalizing t with
  | nil => rfl
  | cons b c ih =>
    rw [coverageXor, ih, positionXor_cons]
    simp only [covered, Nat.add_comm, Nat.add_left_comm]

-- The parity bits

/-- The XOR of the data positions that parity position 2^k covers, R97's closed form of its bit. -/
def dataParity (k : Nat) (c : List Bool) : Bool := positionXor (fun t => !isPow2 t && covered k t) c

/-- The XOR over a coverage set, in its two parts. -/
theorem positionXor_covered (k : Nat) (c : List Bool) :
    positionXor (covered k) c = (dataParity k c ^^ c.getD (2 ^ k - 1) false) :=
  calc positionXor (covered k) c
    _ = positionXor (fun t => (!isPow2 t && covered k t) ^^ t == 2 ^ k - 1 + 1) c := by
      refine positionXor_congr rfl fun b => ?_
      rw [two_pow_sub_one_add_one, ← covered_eq_xor (Nat.add_one_ne_zero b)]
    _ = (dataParity k c ^^ c.getD (2 ^ k - 1) false) := by rw [positionXor_xor, positionXor_single, dataParity]

/-- The closed form reads data positions alone (R97). -/
theorem dataParity_congr {c d : List Bool} (hlen : c.length = d.length)
    (h : ∀ b, isPow2 (b + 1) = false → c.getD b false = d.getD b false) (k : Nat) :
    dataParity k c = dataParity k d := by
  refine positionXor_congr hlen fun b => ?_
  cases hp : isPow2 (b + 1) with
  | true => rfl
  | false => rw [h b hp]

/-- What a turn of step 4 does: the bit of its parity position is changed by the XOR of the data positions covered. -/
theorem setParity_eq (c : List Bool) (k : Nat) :
    setParity c k = c.set (2 ^ k - 1) (dataParity k c ^^ c.getD (2 ^ k - 1) false) := by
  rw [setParity, coverageXor_eq k 0, ← positionXor_covered]
  rfl

@[simp] theorem length_setParity (c : List Bool) (k : Nat) : (setParity c k).length = c.length := List.length_set

/-- A turn leaves every position but its own alone. -/
theorem getD_setParity_of_ne {k b : Nat} (h : b + 1 ≠ 2 ^ k) (c : List Bool) :
    (setParity c k).getD b false = c.getD b false := by
  have hb : 2 ^ k - 1 ≠ b := by rintro rfl; simp at h
  simp [setParity, List.getElem?_set_ne hb]

/-- At its own position a turn stores what `setParity_eq` says, if the codeword has the position. -/
theorem getD_setParity_self {k : Nat} {c : List Bool} (h : 2 ^ k ≤ c.length) :
    (setParity c k).getD (2 ^ k - 1) false = (dataParity k c ^^ c.getD (2 ^ k - 1) false) := by
  have hlt : 2 ^ k - 1 < c.length := by rwa [Nat.lt_iff_add_one_le, two_pow_sub_one_add_one]
  rw [setParity_eq]
  simp [hlt]

@[simp] theorem dataParity_setParity (k l : Nat) (c : List Bool) : dataParity k (setParity c l) = dataParity k c :=
  dataParity_congr (length_setParity c l) (fun _ hb => getD_setParity_of_ne (ne_two_pow_of_data hb l) c) k

/-- Two turns of step 4 commute (R97). -/
theorem setParity_comm (c : List Bool) (k l : Nat) : setParity (setParity c k) l = setParity (setParity c l) k := by
  rcases eq_or_ne k l with rfl | hne
  · rfl
  · have hpos : 2 ^ k ≠ 2 ^ l := fun h => hne (Nat.pow_right_injective le_rfl h)
    have hk := two_pow_sub_one_add_one k
    have hl := two_pow_sub_one_add_one l
    rw [setParity_eq (setParity c k) l, setParity_eq (setParity c l) k, dataParity_setParity, dataParity_setParity,
      getD_setParity_of_ne (by rwa [hl, ne_comm]), getD_setParity_of_ne (by rwa [hk]), setParity_eq c k,
      setParity_eq c l]
    exact List.set_comm _ _ (by omega)

-- Any number of turns

@[simp] theorem length_foldl_setParity (ks : List Nat) (c : List Bool) : (ks.foldl setParity c).length = c.length := by
  induction ks generalizing c with
  | nil => rfl
  | cons k ks ih => rw [List.foldl_cons, ih, length_setParity]

theorem getD_foldl_setParity_of_ne {ks : List Nat} {b : Nat} (h : ∀ k ∈ ks, b + 1 ≠ 2 ^ k) (c : List Bool) :
    (ks.foldl setParity c).getD b false = c.getD b false := by
  induction ks generalizing c with
  | nil => rfl
  | cons k ks ih =>
    obtain ⟨hk, hks⟩ := List.forall_mem_cons.1 h
    rw [List.foldl_cons, ih hks, getD_setParity_of_ne hk]

theorem foldl_setParity_perm {ks ls : List Nat} (h : ks.Perm ls) (c : List Bool) :
    ks.foldl setParity c = ls.foldl setParity c :=
  h.foldl_eq' (fun k _ l _ c => setParity_comm c k l) c

/-- Step 4 of R90 with any of its turns taken last. -/
theorem foldl_setParity_range_last {k r : Nat} (h : k < r) (c : List Bool) :
    (List.range r).foldl setParity c = setParity (((List.range r).erase k).foldl setParity c) k := by
  have hperm := List.perm_cons_erase (List.mem_range.2 h)
  rw [foldl_setParity_perm (hperm.trans (List.perm_append_singleton _ _).symm), List.foldl_concat]

-- The codeword

/-- R95: the walk makes a codeword's length, and the turns of step 4 keep it. -/
@[simp] theorem length_hammingEncode (p : List Bool) : (hammingEncode p).length = codewordLength p.length := by
  rw [hammingEncode, length_foldl_setParity, length_placeData]

/-- The data positions of a codeword are as the walk left them. -/
theorem getD_hammingEncode_of_data {b : Nat} (h : isPow2 (b + 1) = false) (p : List Bool) :
    (hammingEncode p).getD b false = (placeData (codewordLength p.length) 1 p).getD b false :=
  getD_foldl_setParity_of_ne (fun k _ => ne_two_pow_of_data h k) _

/-- R97's closed form: the turn of `k`, taken last, finds the placeholder 0. -/
theorem getD_hammingEncode_of_parity {p : List Bool} {k : Nat} (h : k < plan p.length) :
    (hammingEncode p).getD (2 ^ k - 1) false = dataParity k (hammingEncode p) := by
  have hothers : ∀ l ∈ (List.range (plan p.length)).erase k, 2 ^ k - 1 + 1 ≠ 2 ^ l := by
    intro l hl heq
    rw [two_pow_sub_one_add_one] at heq
    rw [← Nat.pow_right_injective le_rfl heq] at hl
    exact List.nodup_range.not_mem_erase hl
  have hzero : (placeData (codewordLength p.length) 1 p).getD (2 ^ k - 1) false = false :=
    getD_placeData_of_parity (isPow2_paritySlot k)
  have hlen : 2 ^ k ≤ codewordLength p.length := two_pow_le_codewordLength_iff.2 h
  rw [hammingEncode, foldl_setParity_range_last h, dataParity_setParity, getD_setParity_self (by simpa using hlen),
    getD_foldl_setParity_of_ne hothers, hzero, Bool.xor_false]

/-- The parity bits do not matter to the data read back. -/
theorem extractData_foldl_setParity (ks : List Nat) (c : List Bool) :
    extractData (ks.foldl setParity c) = extractData c := by
  induction ks generalizing c with
  | nil => rfl
  | cons k ks ih =>
    rw [List.foldl_cons, ih]
    exact extractFrom_set_of_parity (isPow2_paritySlot k) c _

end Sys2Proof.Machine
end

section
/-!
PROOFS. The statements about the encoding function (R92, R95 to R98).
-/

namespace Sys2Proof.Machine

/-- Settles O10: the parity bits do not matter to the data read back, and the walk meets as many data positions as there
are payload bits, so it is read back by induction over its positions (`extractFrom_placeData`). -/
theorem dataIsRecovered : Obligations.DataIsRecovered := by
  intro p
  rw [hammingEncode, extractData_foldl_setParity]
  exact extractFrom_placeData (dataCount_codewordLength p.length)

/-- Settles O8: every turn of step 4 keeps the length of the walk (`length_hammingEncode`). -/
theorem codewordLengthLaw : Obligations.CodewordLengthLaw := length_hammingEncode

/-- Settles O9: a codeword has the parity positions below its parity count, and the number of data positions before a
position is its closed form (`dataCount_before`). -/
theorem dataPlacement : Obligations.DataPlacement := by
  refine fun p => ⟨fun i hi hn => ?parity, ?count, fun i hi hn hp => ?data⟩
  case parity =>
    rw [isPow2_iff (by omega)]
    constructor
    · rintro ⟨k, rfl⟩
      exact ⟨k, two_pow_le_codewordLength_iff.1 hn, rfl⟩
    · rintro ⟨k, -, rfl⟩
      exact ⟨k, rfl⟩
  case count =>
    rw [← List.countP_eq_length_filter]
    have h := dataCount_codewordLength p.length
    rw [dataCount, List.range'_eq_map_range, List.countP_map] at h
    simpa only [Function.comp_def, Nat.add_comm] using h
  case data =>
    obtain ⟨b, rfl⟩ := Nat.exists_eq_add_of_le' hi
    have hindex := dataCount_before hp
    have hrank : dataCount 1 (b + 1) = dataCount 1 b + 1 := by simp [dataCount_succ_last, Nat.add_comm 1 b, hp]
    have hmono := dataCount_mono 1 hn
    rw [dataCount_codewordLength] at hmono
    refine ⟨by omega, by omega, ?_⟩
    rw [Nat.add_sub_cancel, getD_hammingEncode_of_data hp, getD_placeData_of_data hn (by rwa [Nat.add_comm]),
      show dataCount 1 b = b + 1 - Nat.log2 (b + 1) - 2 by omega]

/-- Settles O11: a parity bit is the XOR of the rest of its group. -/
theorem everyParityGroupIsEven : Obligations.EveryParityGroupIsEven := by
  intro p k hk
  rw [positionXor_covered, getD_hammingEncode_of_parity hk, Bool.xor_self]

/-- Settles O12: the turns of step 4 commute, and the last one finds its placeholder 0. -/
theorem parityOrderIsFree : Obligations.ParityOrderIsFree := by
  refine ⟨fun l k hne => ?_, fun p k hk => getD_hammingEncode_of_parity hk, fun p ks h => foldl_setParity_perm h _⟩
  rw [Nat.and_two_pow, Nat.testBit_two_pow_of_ne hne, Bool.toNat_false, Nat.zero_mul]

end Sys2Proof.Machine
end

section
/-!
PROOFS. Writes of CTRL and the ENGINE's step of what they issue (42_control.md, R111, R113 to R115). A write of CTRL
has three outcomes, one lemma for each; `engineTurn_accept` follows the accepted command to its end. STATUS is the sum
of its flags (`toNat_statusWord`).
-/

namespace Sys2Proof.Machine

-- The three outcomes of a write of CTRL (R111)

theorem ctrlWrite_of_nop {v : Word} (hv : v.toNat % 16 = 0) (s : State) : ctrlWrite v s = .next s := by
  rw [ctrlWrite_eq, if_pos (cmdField_eq_zero_iff.2 hv)]

theorem ctrlWrite_of_busy {v : Word} {s : State} (hv : v.toNat % 16 ≠ 0) (hb : s.busy = true) :
    ctrlWrite v s = .next s.dropWrite := by
  rw [ctrlWrite_eq, if_neg (mt cmdField_eq_zero_iff.1 hv), if_pos hb]

theorem ctrlWrite_of_idle {v : Word} {s : State} (hv : v.toNat % 16 ≠ 0) (hb : s.busy = false) :
    ctrlWrite v s = .next (s.accept (cmdField v)) := by
  rw [ctrlWrite_eq, if_neg (mt cmdField_eq_zero_iff.1 hv), hb]
  rfl

/-- An accepted command is the one the ENGINE performs (R110, R111). -/
theorem engineTurn_accept {c : Code} (hc : c ≠ 0#4) (s : State) :
    engineTurn (s.accept c) = exec (decodeCode c) (s.accept c) :=
  engineTurn_of_pending rfl hc

-- STATUS

theorem busReadData_status (s : State) : busReadData 0x004 s = statusWord s :=
  busReadData_of_not_draws (readDraws_of_not_result rfl)

/-- The flags of STATUS do not overlap, so the word is their sum (R24). -/
theorem toNat_statusWord (s : State) :
    (statusWord s).toNat = 16 * s.err.toNat + 4 * s.ovr.toNat + 2 * s.done.toNat + s.busy.toNat := by
  unfold statusWord
  generalize s.err = e, s.ovr = o, s.done = d, s.busy = b
  revert e o d b
  decide

/-- What a host reads from STATUS, flag by flag. -/
theorem busReadData_status_eq_iff {s : State} {v : Word} : busReadData 0x004 s = v ↔
    16 * s.err.toNat + 4 * s.ovr.toNat + 2 * s.done.toNat + s.busy.toNat = v.toNat := by
  rw [busReadData_status, ← BitVec.toNat_inj, toNat_statusWord]

-- The obligations

/-- Settles O14: the write of a NOP is `ctrlWrite_of_nop`, and a read depends on the block alone. -/
theorem nopChangesNothing : Obligations.NopChangesNothing := by
  refine ⟨fun s => rfl, fun s k v ls ts ho hv => ?_⟩
  have hsame : SameBlock s ((s.took k ls ts).observe k .ack) := ⟨⟨rfl, rfl, rfl, rfl, rfl⟩, SameFlags.refl s, rfl⟩
  refine ⟨(s.took k ls ts).observe k .ack, ?_, hsame, rfl, busReadData_congr hsame rfl 0x004⟩
  rw [step_offers_access ho, busAccess_write, if_pos (by decide), busWrite_ctrl, ctrlWrite_of_nop hv, afterNext_next]

/-- Settles O21: the three outcomes of the write, and PLAN of the empty payload for the worked example. -/
theorem commandAcceptance : Obligations.CommandAcceptance := by
  refine ⟨fun s v hv => ctrlWrite_of_nop hv s, fun s v => ctrlWrite_of_busy, fun s v hv hb => ?_, fun m => ?_⟩
  · exact ⟨s.accept (cmdField v), ctrlWrite_of_idle hv hb, toNat_cmdField v, rfl⟩
  · have hplan : engineTurn ((State.resetAt m).accept 0x1) =
        .next ((((State.resetAt m).accept 0x1).writeResult 0).complete errOk) :=
      (engineTurn_accept (by decide) _).trans (exec_plan_of_le (Nat.zero_le _))
    exact ⟨_, _, ctrlWrite_of_idle (by decide) rfl, busReadData_status_eq_iff.2 rfl, hplan,
      busReadData_status_eq_iff.2 rfl⟩

theorem decodeCmd_eq_clear_iff {v : Word} : decodeCmd v = .clear ↔ v.toNat % 16 = 3 :=
  (decodeCmd_eq_iff (w := 0x3)).trans cmdField_eq_iff

/-- Settles O18: CLEAR's one outcome, the outcomes of the write that issues it, and for the worked example that
STATUS = 0x16 says OVR = 1. -/
theorem clearCommandEffect : Obligations.ClearCommandEffect := by
  refine ⟨fun v => decodeCmd_eq_clear_iff, fun s => ?effect, fun s v hv => ?issued, fun s a hb hstatus h => ?worked⟩
  case effect =>
    exact ⟨_, rfl, ⟨⟨rfl, rfl, rfl, rfl, rfl⟩, ⟨rfl, rfl, rfl, rfl, rfl⟩, rfl⟩, rfl, rfl, rfl, rfl⟩
  case issued =>
    have hne : v.toNat % 16 ≠ 0 := by omega
    exact ⟨ctrlWrite_of_busy hne, fun hb => ⟨_, ctrlWrite_of_idle hne hb, rfl⟩⟩
  case worked =>
    rw [ctrlWrite_of_idle (by decide) hb] at h
    cases h
    have hovr : s.ovr = true := by
      have hsum : _ = 22 := busReadData_status_eq_iff.1 hstatus
      have hovr := s.ovr.toNat_le
      have hdone := s.done.toNat_le
      have hbusy := s.busy.toNat_le
      rw [← Bool.toNat_eq_one]
      omega
    refine ⟨busReadData_status_eq_iff.2 ?_, _, engineTurn_accept (by decide) s, busReadData_status_eq_iff.2 rfl,
      busReadData_len _, (busReadData_result rfl).trans (by simp [resultWord])⟩
    rw [State.accept_ovr, hovr]
    rfl

/-- Which words are reserved commands (R63). -/
theorem decodeCode_reserved_iff {c : Code} :
    (∃ d, decodeCode c = .reserved47 d ∨ decodeCode c = .reserved8F d) ↔ 4 ≤ c.toNat := by
  refine ⟨?_, fun h => ⟨c, decodeCode_reserved h⟩⟩
  revert c
  decide

/-- Settles O19: a reserved command has one outcome in every state (`exec_of_reserved`), so the accepted one has it. -/
theorem reservedCommandsReportCmdErr : Obligations.ReservedCommandsReportCmdErr := by
  refine ⟨fun c s => ⟨rfl, rfl⟩, fun v => ?_, fun s v hb hv => ?_⟩
  · rw [decodeCmd_eq_decodeCode, decodeCode_reserved_iff, toNat_cmdField]
  · have hne : v.toNat % 16 ≠ 0 := by omega
    have hengine : engineTurn (s.accept (cmdField v)) = .next ((s.accept (cmdField v)).complete errCmd) := by
      rw [engineTurn_accept (mt cmdField_eq_zero_iff.1 hne), exec_of_reserved (by rwa [toNat_cmdField])]
    refine ⟨_, _, ctrlWrite_of_idle hne hb, hengine, rfl, fun hovr => busReadData_status_eq_iff.2 ?_⟩
    rw [State.complete_ovr, State.accept_ovr, hovr]
    rfl

end Sys2Proof.Machine
end

section
/-!
PROOFS. Dropped writes and OVR (R112). `step_ovr_cases` says once what a step can do to OVR; both directions of the
rule are read off it.
-/

namespace Sys2Proof.Machine

/-- No command touches OVR but CLEAR, which clears it (R112, R114). -/
theorem exec_ovr_cases {i : Instr} {s t : State} (h : exec i s = .next t) :
    t.ovr = s.ovr ∨ (i = .clear ∧ t.ovr = false) := by
  rcases exec_cases h with ⟨-, rfl⟩ | ⟨-, -, rfl⟩ | ⟨-, -, rfl⟩ | ⟨-, -, rfl⟩ | ⟨rfl, rfl⟩ | ⟨-, rfl⟩
  case inr.inr.inr.inr.inl => exact .inr ⟨rfl, rfl⟩
  all_goals exact .inl rfl

/-- A transaction sets OVR if it is a dropped write, and else leaves it alone (R112). -/
theorem ovr_of_offers_access {s t : State} {k : Nat} {tr : Transaction} {ls : List Line} {ts : List Turn}
    (ho : Offers s k (.access tr) ls ts) (h : step s = .next t) :
    (IsDropped s tr ∧ t.ovr = true) ∨ t.ovr = s.ovr := by
  obtain ⟨-, hwriters, -, -⟩ := statusFlagWriters
  obtain ⟨haccepted, hdropped, hother⟩ := hwriters s t k tr ls ts ho h
  by_cases hd : IsDropped s tr
  · obtain ⟨-, -, hovr, -⟩ := hdropped hd
    exact .inl ⟨hd, hovr⟩
  · by_cases ha : AcceptsCommand s tr
    · obtain ⟨-, -, hovr, -⟩ := haccepted ha
      exact .inr hovr
    · obtain ⟨-, -, hovr, -⟩ := hother ha hd
      exact .inr hovr

/-- What a step can do to OVR: reset and CLEAR's ENGINE step clear it, a dropped write sets it, and every other step
leaves it alone. -/
theorem step_ovr_cases {s t : State} (h : step s = .next t) :
    (t.ovr = false ∧ (ResetIsNext s ∨ EngineIsNext s ∧ s.pend = 0x3#4)) ∨
    (t.ovr = true ∧ ∃ k tr ls ts, Offers s k (.access tr) ls ts ∧ IsDropped s tr) ∨
    t.ovr = s.ovr := by
  rcases step_next_cases h with ⟨ts, hts, rfl⟩ | ⟨he, -, hx⟩ | ⟨k, off, v, ls, ts, -, ho, -⟩ | ⟨-, hflags, -⟩
  · exact .inl ⟨rfl, .inl ⟨ts, hts⟩⟩
  · rcases exec_ovr_cases hx with hkeep | ⟨hclear, hovr⟩
    · exact .inr (.inr hkeep)
    · have hpend : s.pend = 0x3#4 := by
        rw [← code_decodeCode s.pend, hclear]
        rfl
      exact .inl ⟨hovr, .inr ⟨he, hpend⟩⟩
  · rcases ovr_of_offers_access ho h with ⟨hd, hovr⟩ | hkeep
    · exact .inr (.inl ⟨hovr, k, _, ls, ts, ho, hd⟩)
    · exact .inr (.inr hkeep)
  · obtain ⟨-, -, hkeep, -⟩ := hflags
    exact .inr (.inr hkeep)

/-- Settles O22: the effect of a dropped write, and the cases of `step_ovr_cases` that change OVR. -/
theorem writesWhileBusyAreDropped : Obligations.WritesWhileBusyAreDropped := by
  refine ⟨fun s k tr ls ts ho hd => ?dropped, fun s t h hs ht => ?set, fun s t h hs ht => ?cleared⟩
  case dropped =>
    rw [step_offers_access ho, busAccess_of_dropped (s := s.took k ls ts) hd]
    rfl
  case set =>
    rcases step_ovr_cases h with ⟨hovr, -⟩ | ⟨-, hdropped⟩ | hkeep
    · simp [hovr] at ht
    · exact hdropped
    · simp [hkeep, hs] at ht
  case cleared =>
    rcases step_ovr_cases h with ⟨-, hcleared⟩ | ⟨hovr, -⟩ | hkeep
    · exact hcleared
    · simp [hovr] at ht
    · simp [hkeep, hs] at ht

end Sys2Proof.Machine
end

section
/-!
PROOFS. What a host write does at every offset (R117): the frame of every write, the bits of a PAYLOAD word, and the
offsets that ignore writes.
-/

namespace Sys2Proof.Machine

/-- A write touches nothing outside the block (R117). -/
theorem busWrite_sameWorld {off : Offset} {v : Word} {s t : State} (h : busWrite off v s = .next t) :
    SameWorld s t := by
  obtain ⟨u, hu, hcases⟩ := busWrite_cases off v s
  rw [hu] at h
  cases h
  rcases hcases with rfl | ⟨-, rfl⟩ | ⟨-, -, rfl⟩ | ⟨-, rfl⟩ | ⟨-, w, rfl⟩
  all_goals exact ⟨rfl, rfl, rfl, rfl⟩

/-- A slot of the written word that exists receives the word's bit (R28). -/
theorem getLsbD_writePayload_of_lt {s : State} {w b : Nat} {v : Word} (hb : b < 32) (h : 32 * w + b < s.mMax.val) :
    (s.writePayload w v).pay.getLsbD (32 * w + b) = v.getLsbD b := by
  have hm : s.mMax.val ≤ 2036 := Nat.le_of_lt_succ s.mMax.isLt
  rw [State.writePayload_pay, getLsbD_setBufferWord _ _ _ _ _ (by omega), if_pos (by omega), Nat.add_sub_cancel_left]

/-- A slot of another word, and one at or beyond M_MAX, is left alone (R28). -/
theorem getLsbD_writePayload_of_outside {s : State} {w i : Nat} {v : Word}
    (h : i < 32 * w ∨ 32 * w + 32 ≤ i ∨ s.mMax.val ≤ i) : (s.writePayload w v).pay.getLsbD i = s.pay.getLsbD i := by
  by_cases hi : i < 2048
  · rw [State.writePayload_pay, getLsbD_setBufferWord _ _ _ _ _ hi, if_neg (by omega)]
  · rw [BitVec.getLsbD_of_ge _ _ (by omega), BitVec.getLsbD_of_ge _ _ (by omega)]

/-- The offsets at which a write is not ignored are those of CTRL, LEN and the PAYLOAD words (R41, R117). -/
theorem busWrite_ignored_of_offset {off : Offset} (v : Word) (s : State) (hctrl : off ≠ 0x000) (hlen : off ≠ 0x008)
    (hpay : ¬ (0x100 ≤ off.toNat ∧ off.toNat < 0x200)) : busWrite off v s = .next s :=
  busWrite_ignored v s ⟨mt eq_of_targetOf_ctrl hctrl, mt eq_of_targetOf_len hlen,
    fun w hw => hpay (targetOf_payload_iff.1 ⟨w, hw⟩)⟩

/-- Settles O24: the effect at each kind of register, and the frame that every write has. -/
theorem busWriteEffects : Obligations.BusWriteEffects := by
  refine fun s => ⟨fun k off v h4 => ?frame, fun k off size v hundef => ?undefined, fun v => busWrite_ctrl v s,
    fun v hb => ?lenBusy, fun v hb => ?lenIdle, fun w hw v hb => ?payloadBusy, fun w hw v hb => ?payloadIdle,
    fun off v h4 hoff => ?ignored⟩
  case frame =>
    obtain ⟨t, ht, -⟩ := busWrite_cases off v s
    have hworld := busWrite_sameWorld ht
    refine ⟨t, ht, ?_, hworld⟩
    obtain ⟨-, -, hseen, -⟩ := hworld
    rw [busAccess_write, if_pos (by simp [accessDefined, h4]), ht, afterNext_next, State.observe, hseen]
  case undefined => rw [busAccess_write, if_neg (by simpa [accessDefined] using hundef)]
  case lenBusy =>
    rw [busWrite_len, if_pos hb]
    rfl
  case lenIdle => exact ⟨s.writeLen v, by rw [busWrite_len, hb]; rfl, BitVec.toNat_setWidth 12 v, rfl⟩
  case payloadBusy =>
    rw [busWrite_payload hw, if_pos hb]
    rfl
  case payloadIdle =>
    exact ⟨s.writePayload w v, by rw [busWrite_payload hw, hb]; rfl, fun b => getLsbD_writePayload_of_lt,
      fun i => getLsbD_writePayload_of_outside, rfl⟩
  case ignored => exact busWrite_ignored_of_offset v s (by bv_omega) (by bv_omega) (by bv_omega)

end Sys2Proof.Machine
end

section
/-!
PROOFS. The length error (R142). PLAN and ENCODE report PLAN_ERR exactly when LEN > M_MAX (`exec_lengthCommand_flags`),
and then only end their ENGINE step; every other command that has an ENGINE step reports something else.
-/

namespace Sys2Proof.Machine

/-- ENCODE of a length the block cannot hold fails, and changes no more than the end of every ENGINE step does (R101). -/
theorem exec_encode_of_lt {s : State} (h : s.mMax.val < s.len.toNat) : exec .encode s = .next (s.complete errPlan) :=
  execEncode_of_not_fits (Bool.eq_false_iff.2 (mt s.lenFits_iff.1 h.not_ge))

/-- The commands with an ENGINE step that do not read LEN never report PLAN_ERR: CLEAR succeeds, and a reserved command
reports CMD_ERR (R114, R115). -/
theorem exec_otherCommand_err_ne {i : Instr} {s t : State} (hnop : i ≠ .nop) (hi : ¬ (i = .plan ∨ i = .encode))
    (h : exec i s = .next t) : t.err ≠ errPlan := by
  rcases exec_cases h with ⟨rfl, -⟩ | ⟨hlength, -⟩ | ⟨rfl, -⟩ | ⟨rfl, -⟩ | ⟨-, rfl⟩ | ⟨-, rfl⟩
  case inl => exact absurd rfl hnop
  case inr.inl => exact absurd hlength hi
  case inr.inr.inl => exact absurd (.inl rfl) hi
  case inr.inr.inr.inl => exact absurd (.inr rfl) hi
  case inr.inr.inr.inr.inl => exact show errOk ≠ errPlan by decide
  case inr.inr.inr.inr.inr => exact show errCmd ≠ errPlan by decide

/-- Settles O17: the failing outcome of PLAN and of ENCODE, and for the exactness the error code of each kind of
command. -/
theorem lengthErrorIsPlanErr : Obligations.LengthErrorIsPlanErr := by
  refine ⟨?failure, fun i s t hnop h => ?planErr, fun i s t hi h => ?noError⟩
  case failure =>
    rintro i s (rfl | rfl) hlt
    · exact exec_plan_of_lt hlt
    · exact exec_encode_of_lt hlt
  case planErr =>
    by_cases hi : i = .plan ∨ i = .encode
    · obtain ⟨-, herr⟩ := exec_lengthCommand_flags hi h
      simp [herr, hi]
    · exact iff_of_false (exec_otherCommand_err_ne hnop hi h) (mt And.left hi)
  case noError =>
    obtain ⟨-, herr⟩ := exec_lengthCommand_flags hi h
    simp [herr]

end Sys2Proof.Machine
end

section
/-!
PROOFS. The command map read both ways (30_encoding.md, R60, R63). A well-formed instruction is the one its code decodes
to (`decodeCode_code`), and a row of the table looks at bits 3:0 of a word alone (`hits_encode_decodeCmd`), so what the
table says of a command's own word (`EncodingMatchesTable`) it says of every word that decodes to the command.
-/

namespace Sys2Proof.Machine

-- Decoding an instruction's code

/-- A well-formed instruction is the one its code decodes to: a reserved code lies in its own row (R63). -/
theorem decodeCode_code {i : Instr} (h : i.wellFormed = true) : decodeCode i.code = i := by
  cases i with
  | nop | plan | encode | clear => rfl
  | reserved47 c => revert c; decide
  | reserved8F c => revert c; decide

theorem decodeCmd_encode {i : Instr} (h : i.wellFormed = true) : decodeCmd (encode i) = i := decodeCode_code h

/-- The ignored bits of a command word are written as 0 (R60). -/
theorem toNat_encode (i : Instr) : (encode i).toNat = i.code.toNat := BitVec.toNat_setWidth_of_le (by decide)

/-- Settles O2: the bytes of a word decode as the word does, and the word as the instruction's code. -/
theorem decodeOfEncodeIsTheInstruction : Obligations.DecodeOfEncodeIsTheInstruction := by
  intro i rest h
  have hlt : (encode i).toNat < 16 := by
    rw [toNat_encode]
    exact i.code.isLt
  refine ⟨by rw [encodeBytes, decode_bytesOfWord, decodeCmd_encode h], rfl, ?_, hlt⟩
  rw [decodeTableWord_eq, Nat.mod_eq_of_lt (encode i).isLt, BitVec.ofNat_toNat, BitVec.setWidth_eq, decodeCmd_encode h]

-- The rows of the table

/-- The command word of the command that `v` decodes to is `v` with its ignored bits cleared (R60). -/
theorem encode_decodeCmd (v : Word) : encode (decodeCmd v) = v &&& 0xF#32 := by
  rw [decodeCmd_eq_decodeCode, encode, code_decodeCode]
  apply BitVec.eq_of_toNat_eq
  rw [BitVec.toNat_setWidth_of_le (by decide), toNat_cmdField, BitVec.toNat_and]
  exact (Nat.and_two_pow_sub_one_eq_mod v.toNat 4).symm

/-- No row of the table looks at an ignored bit (R60, R63). -/
theorem mask_of_mem_opcodeTable {r : OpcodeRow} (h : r ∈ opcodeTable) : 0xF#32 &&& r.mask = r.mask := by
  revert r
  decide

/-- A word belongs to the same rows as the command word of its command. -/
theorem hits_encode_decodeCmd {r : OpcodeRow} (h : r ∈ opcodeTable) (v : Word) :
    r.hits (encode (decodeCmd v)) = r.hits v := by
  rw [OpcodeRow.hits, OpcodeRow.hits, encode_decodeCmd, BitVec.and_assoc, mask_of_mem_opcodeTable h]

/-- A well-formed instruction's command word belongs to its own row alone, whatever the command. -/
theorem encodingMatchesTable (i : Instr) : Laws.EncodingMatchesTable.Statement i := by
  cases i with
  | nop => exact Laws.EncodingMatchesTable.nop
  | plan => exact Laws.EncodingMatchesTable.plan
  | encode => exact Laws.EncodingMatchesTable.encode
  | clear => exact Laws.EncodingMatchesTable.clear
  | reserved47 c => exact Laws.EncodingMatchesTable.reserved47 c
  | reserved8F c => exact Laws.EncodingMatchesTable.reserved8F c

theorem decodeCmd_wellFormed (v : Word) : (decodeCmd v).wellFormed = true := by
  rw [decodeCmd_eq_decodeCode]
  exact decodeCode_wellFormed _

/-- Settles O4: a word belongs to the rows of its command's own word, which is one row. -/
theorem commandMapIsTotalAndDisjoint : Obligations.CommandMapIsTotalAndDisjoint := by
  refine fun v => ⟨?_, decodeCmd_wellFormed v, ?_⟩
  · rw [← List.filter_congr fun r hr => hits_encode_decodeCmd hr v]
    exact encodingMatchesTable _ (decodeCmd_wellFormed v)
  · rw [decodeCmd_eq_decodeCode, code_decodeCode, toNat_cmdField]

/-- Settles O1: each word is decoded by the command map. -/
theorem commandWordsDecode : Obligations.CommandWordsDecode := by
  unfold Obligations.CommandWordsDecode
  simp only [decodeTableWord_eq]
  decide

end Sys2Proof.Machine
end

section
/-!
PROOFS. The block's invariant (10_state.md sections 3 to 6). It speaks of the block alone (`SameBlock.inv`), and each
operation on the block's registers keeps it; a command is a sequence of these operations, and one event is a command or
a single operation.
-/

namespace Sys2Proof.Machine

theorem SameBlock.inv {s t : State} (h : SameBlock s t) (hs : s.Inv) : t.Inv := by
  obtain ⟨⟨-, hpay, hcw, hN, hR⟩, ⟨hbusy, hdone, -, herr, hpend⟩, hm⟩ := h
  rwa [State.Inv, hpay, hcw, hN, hR, hbusy, hdone, herr, hpend, State.nMax_congr hm, hm]

/-- The reset state meets the invariant: all fields are 0, and 0 is the parity count of the empty payload. -/
theorem inv_resetAt (m : Fin (Config.mMaxBound + 1)) : (State.resetAt m).Inv :=
  ⟨fun _ => rfl, nofun, nofun, fun _ => rfl, Nat.zero_le 2, BitVec.zero_and, BitVec.zero_and, le_rfl, Nat.zero_le _,
    rfl⟩

/-- The reset input gives the reset state, whatever the block was doing (R33, R160). -/
theorem resetAt_sameBlock_resetBlock (s : State) : SameBlock (State.resetAt s.mMax) s.resetBlock :=
  ⟨⟨rfl, rfl, rfl, rfl, rfl⟩, ⟨rfl, rfl, rfl, rfl, rfl⟩, rfl⟩

-- The operations on the registers

theorem State.Inv.accept {s : State} (h : s.Inv) {c : Code} (hc : c ≠ 0#4) : (s.accept c).Inv := by
  obtain ⟨-, -, -, -, -, hpay, hcw, hres⟩ := h
  exact ⟨nofun, fun _ => hc, fun _ => rfl, fun _ => rfl, Nat.zero_le 2, hpay, hcw, hres⟩

theorem State.Inv.complete {s : State} (h : s.Inv) {e : BitVec 4} (he : e.toNat ≤ 2) : (s.complete e).Inv := by
  obtain ⟨-, -, -, -, -, hpay, hcw, hres⟩ := h
  exact ⟨fun _ => rfl, nofun, nofun, nofun, he, hpay, hcw, hres⟩

/-- A write of a PAYLOAD word stores no bit at or beyond M_MAX (R28). -/
theorem State.Inv.writePayload {s : State} (h : s.Inv) (w : Nat) (v : Word) : (s.writePayload w v).Inv := by
  obtain ⟨hidle, hpend, hdone, herr, hcode, hpay, hcw, hres⟩ := h
  refine ⟨hidle, hpend, hdone, herr, hcode, ?_, hcw, hres⟩
  rw [and_slotsBelow_eq_iff] at hpay ⊢
  intro i hi
  exact (getLsbD_writePayload_of_outside (s := s) (.inr (.inr hi))).trans (hpay i hi)

/-- RESULT receives the counts of an accepted length (R26). -/
theorem State.Inv.writeResult {s : State} (h : s.Inv) {m : Nat} (hm : m ≤ s.mMax.val) : (s.writeResult m).Inv := by
  obtain ⟨hidle, hpend, hdone, herr, hcode, hpay, hcw, -⟩ := h
  refine ⟨hidle, hpend, hdone, herr, hcode, hpay, hcw, ?_⟩
  obtain ⟨hR, hN⟩ := toNat_writeResult hm
  rw [hR, hN, Nat.add_sub_cancel]
  exact ⟨Nat.le_add_left _ _, hm, rfl⟩

/-- CODEWORD receives a codeword no longer than N_MAX (R29). -/
theorem State.Inv.writeCodeword {s : State} (h : s.Inv) {c : List Bool} (hc : c.length ≤ s.nMax) :
    (s.writeCodeword c).Inv := by
  obtain ⟨hidle, hpend, hdone, herr, hcode, hpay, -, hres⟩ := h
  refine ⟨hidle, hpend, hdone, herr, hcode, hpay, ?_, hres⟩
  rw [and_slotsBelow_eq_iff]
  intro i hi
  rw [State.writeCodeword_cw, getLsbD_codewordBuffer, List.getD_eq_default _ _ (hc.trans hi), Bool.and_false]

theorem State.Inv.clearData {s : State} (h : s.Inv) : s.clearData.Inv := by
  obtain ⟨hidle, hpend, hdone, -⟩ := h
  exact ⟨hidle, hpend, hdone, fun _ => rfl, Nat.zero_le 2, BitVec.zero_and, BitVec.zero_and, le_rfl, Nat.zero_le _, rfl⟩

-- Commands, events and steps

theorem length_payloadBits (s : State) : (payloadBits s).length = s.len.toNat := by
  simp [payloadBits]

/-- The codeword of an accepted length fits CODEWORD (R6). -/
theorem length_hammingEncode_payloadBits_le {s : State} (h : s.lenFits = true) :
    (hammingEncode (payloadBits s)).length ≤ s.nMax := by
  rw [length_hammingEncode, length_payloadBits]
  exact codewordLength_mono (s.lenFits_iff.1 h)

theorem exec_inv {i : Instr} {s t : State} (hs : s.Inv) (h : exec i s = .next t) : t.Inv := by
  rcases exec_cases h with ⟨-, rfl⟩ | ⟨-, -, rfl⟩ | ⟨-, hf, rfl⟩ | ⟨-, hf, rfl⟩ | ⟨-, rfl⟩ | ⟨-, rfl⟩
  · exact hs
  · exact hs.complete (by decide)
  · exact (hs.writeResult (s.lenFits_iff.1 hf)).complete (by decide)
  · have hcw : (s.writeCodeword (hammingEncode (payloadBits s))).Inv :=
      hs.writeCodeword (length_hammingEncode_payloadBits_le hf)
    exact (hcw.writeResult (s.lenFits_iff.1 hf)).complete (by decide)
  · exact hs.clearData.complete (by decide)
  · exact hs.complete (by decide)

theorem BlockEvent.inv {s t : State} (h : BlockEvent s t) (hs : s.Inv) : t.Inv := by
  cases h with
  | none h => exact h ▸ hs
  | reset h => exact h ▸ (resetAt_sameBlock_resetBlock s).inv (inv_resetAt s.mMax)
  | engine _ _ h => exact exec_inv hs h
  | dropped _ h => subst h; exact hs
  | accepted _ c hc h => exact h ▸ hs.accept hc
  | lenWritten _ v h => subst h; exact hs
  | payloadWritten _ w v h => exact h ▸ hs.writePayload w v

/-- Settles O47: a step is one event of the block, and every event keeps the invariant (`BlockEvent.inv`). -/
theorem stepKeepsTheInvariant : Obligations.StepKeepsTheInvariant := by
  intro s t hs h
  obtain ⟨v, w, hv, he, hw⟩ := blockEvent_of_step h
  exact hw.inv (he.inv (hv.inv hs))

end Sys2Proof.Machine
end

section
/-!
PROOFS. The parity groups of CODEWORD stay even (R98). CODEWORD is only ever left alone, cleared, or filled with a
codeword of the encoder, and a codeword of the encoder has even groups: those below its own
parity count by R98, and those above it because they contain none of its positions.
-/

namespace Sys2Proof.Machine

/-- The XOR does not see the length of a word, only the bits at the positions picked (R29: positions beyond the
codeword hold 0). -/
theorem positionXor_eq_of_getD {f : Nat → Bool} {c d : List Bool}
    (h : ∀ b, (f (b + 1) && c.getD b false) = (f (b + 1) && d.getD b false)) : positionXor f c = positionXor f d := by
  induction c generalizing f d with
  | nil =>
    have hzero : positionXor f d = positionXor (fun _ => false) d :=
      positionXor_congr rfl fun b => (h b).symm.trans (by simp)
    rw [hzero, positionXor_false]
    rfl
  | cons x c ih =>
    cases d with
    | nil =>
      have hzero : positionXor f (x :: c) = positionXor (fun _ => false) (x :: c) :=
        positionXor_congr rfl fun b => (h b).trans (by simp)
      rw [hzero, positionXor_false]
      rfl
    | cons y d =>
      have hhead := h 0
      have htail : positionXor (fun t => f (t + 1)) c = positionXor (fun t => f (t + 1)) d := ih fun b => h (b + 1)
      rw [positionXor_cons, positionXor_cons, htail]
      exact congrArg (· ^^ _) hhead

/-- The XOR over positions that hold 0 is 0. -/
theorem positionXor_eq_false {f : Nat → Bool} {c : List Bool} (h : ∀ b, (f (b + 1) && c.getD b false) = false) :
    positionXor f c = false :=
  positionXor_eq_of_getD (d := []) fun b => (h b).trans (by simp)

theorem getD_codewordBits (s : State) (b : Nat) : (codewordBits s).getD b false = s.cw.getLsbD b := by
  by_cases hb : b < 2048
  · simp [codewordBits, hb]
  · simp [codewordBits, hb, BitVec.getLsbD_of_ge s.cw b (by omega)]

/-- Every parity group of a codeword is even, also those of parity positions beyond its end (R98). -/
theorem positionXor_covered_hammingEncode (p : List Bool) (k : Nat) :
    positionXor (covered k) (hammingEncode p) = false := by
  by_cases hk : k < plan p.length
  · exact everyParityGroupIsEven p k hk
  · refine positionXor_eq_false fun b => ?_
    by_cases hb : b < codewordLength p.length
    · have hfits : p.length + k + 1 ≤ 2 ^ k := plan_le_iff.1 (Nat.not_lt.1 hk)
      have hpos : b + 1 < 2 ^ k := by
        rw [codewordLength] at hb
        omega
      rw [covered_eq_testBit, Nat.testBit_lt_two_pow hpos, Bool.false_and]
    · rw [List.getD_eq_default _ _ (by rw [length_hammingEncode]; omega), Bool.and_false]

/-- CODEWORD when the block stored a codeword that fits it. -/
theorem evenGroups_of_codewordBuffer {s : State} {p : List Bool} (h : s.cw = codewordBuffer (hammingEncode p))
    (hp : codewordLength p.length ≤ 2048) : s.EvenGroups := by
  intro k _
  rw [← positionXor_covered_hammingEncode p k]
  refine positionXor_eq_of_getD fun b => ?_
  rw [getD_codewordBits, h, getLsbD_codewordBuffer]
  by_cases hb : b < 2048
  · rw [decide_eq_true hb, Bool.true_and]
  · rw [List.getD_eq_default _ _ (by rw [length_hammingEncode]; omega), Bool.and_false]

theorem evenGroups_of_zero {s : State} (h : s.cw = 0#2048) : s.EvenGroups := by
  intro k _
  refine positionXor_eq_false fun b => ?_
  rw [getD_codewordBits, h, BitVec.getLsbD_zero, Bool.and_false]

theorem State.EvenGroups.congr {s t : State} (h : s.EvenGroups) (hcw : t.cw = s.cw) (hm : t.mMax = s.mMax) :
    t.EvenGroups := by
  have hbits : codewordBits t = codewordBits s := by rw [codewordBits, hcw, codewordBits]
  rw [State.EvenGroups, State.rMax_congr hm, hbits]
  exact h

theorem exec_evenGroups {i : Instr} {s t : State} (hs : s.EvenGroups) (h : exec i s = .next t) : t.EvenGroups := by
  rcases exec_cases h with ⟨-, rfl⟩ | ⟨-, -, rfl⟩ | ⟨-, -, rfl⟩ | ⟨-, hf, rfl⟩ | ⟨-, rfl⟩ | ⟨-, rfl⟩
  · exact hs
  · exact hs.congr rfl rfl
  · exact hs.congr rfl rfl
  · have hfits := length_hammingEncode_payloadBits_le hf
    have hmax := s.nMax_le
    rw [length_hammingEncode] at hfits
    exact evenGroups_of_codewordBuffer (p := payloadBits s) rfl (by omega)
  · exact evenGroups_of_zero rfl
  · exact hs.congr rfl rfl

theorem BlockEvent.evenGroups {s t : State} (h : BlockEvent s t) (hs : s.EvenGroups) : t.EvenGroups := by
  cases h with
  | none h => exact h ▸ hs
  | reset h => exact h ▸ evenGroups_of_zero rfl
  | engine _ _ h => exact exec_evenGroups hs h
  | dropped _ h | accepted _ _ _ h | lenWritten _ _ h | payloadWritten _ _ _ h => exact h ▸ hs.congr rfl rfl

/-- Settles O48: a step is one event of the block, and every event keeps the groups even (`BlockEvent.evenGroups`). -/
theorem stepKeepsEvenGroups : Obligations.StepKeepsEvenGroups := by
  intro s t hs h
  obtain ⟨v, w, ⟨⟨-, -, hv, -⟩, -, hvm⟩, he, ⟨⟨-, -, hw, -⟩, -, hwm⟩⟩ := blockEvent_of_step h
  exact (he.evenGroups (hs.congr hv hvm)).congr hw hwm

/-- Settles O46: the reset state has all fields 0. -/
theorem resetMeetsTheInvariant : Obligations.ResetMeetsTheInvariant :=
  fun m => ⟨inv_resetAt m, evenGroups_of_zero rfl⟩

end Sys2Proof.Machine
end

section
/-!
PROOFS. What a run can stop on (42_control.md section 4, 60_exceptions.md). In a state of the invariant the ENGINE's turn
goes on, and a line of a host program stops on an undefined access alone, so a step has no other stop; the safety of
runs is one induction over their length.
-/

namespace Sys2Proof.Machine

theorem accessDefined_iff {off : Offset} {size : Nat} :
    accessDefined off size = true ↔ size = 4 ∧ off.toNat % 4 = 0 := by
  simp [accessDefined]

/-- A transaction goes on when its size and its alignment are defined, and is a bus error when they are not (R42). -/
theorem busAccess_read_of_defined {off : Offset} {size : Nat} (h : size = 4 ∧ off.toNat % 4 = 0) (k : Nat) (s : State) :
    busAccess k (.read off size) s = .next ((afterRead off s).observe k (.data (busReadData off s))) :=
  if_pos (accessDefined_iff.2 h)

theorem busAccess_read_of_undefined {off : Offset} {size : Nat} (h : ¬ (size = 4 ∧ off.toNat % 4 = 0)) (k : Nat)
    (s : State) :
    busAccess k (.read off size) s = .fault (.busError (.read off size) (some (Config.draw32 s.draws))) :=
  if_neg (mt accessDefined_iff.1 h)

theorem busAccess_write_of_defined {off : Offset} {size : Nat} {v : Word} {s u : State}
    (h : size = 4 ∧ off.toNat % 4 = 0) (hu : busWrite off v s = .next u) (k : Nat) :
    busAccess k (.write off size v) s = .next (u.observe k .ack) := by
  rw [busAccess_write, if_pos (accessDefined_iff.2 h), hu, afterNext_next]

theorem busAccess_write_of_undefined {off : Offset} {size : Nat} (h : ¬ (size = 4 ∧ off.toNat % 4 = 0)) (k : Nat)
    (v : Word) (s : State) : busAccess k (.write off size v) s = .fault (.busError (.write off size v) none) :=
  if_neg (mt accessDefined_iff.1 h)

/-- Settles O25: the two outcomes of a transaction. -/
theorem undefinedAccessIsBusError : Obligations.UndefinedAccessIsBusError := by
  refine ⟨fun s k off size ls ts ho => ?read, fun s k off size v ls ts ho => ?write⟩
  case read =>
    rw [step_offers_access ho]
    by_cases h : size = 4 ∧ off.toNat % 4 = 0
    · exact ⟨iff_of_true ⟨_, busAccess_read_of_defined h k _⟩ h, absurd h⟩
    · have hfault := busAccess_read_of_undefined h k (s.took k ls ts)
      exact ⟨iff_of_false (by simp [hfault]) h, fun _ => hfault⟩
  case write =>
    rw [step_offers_access ho]
    by_cases h : size = 4 ∧ off.toNat % 4 = 0
    · obtain ⟨u, hu, -⟩ := busWrite_cases off v (s.took k ls ts)
      exact ⟨iff_of_true ⟨_, busAccess_write_of_defined h hu k⟩ h, absurd h⟩
    · have hfault := busAccess_write_of_undefined h k v (s.took k ls ts)
      exact ⟨iff_of_false (by simp [hfault]) h, fun _ => hfault⟩

/-- One turn of a POLL is one read, and the line stays unless the data matches (R68). -/
theorem runLine_poll (k : Nat) (off : Offset) (mask val : Word) (ls : List Line) (s : State) :
    runLine k (.poll off mask val) ls s =
      busAccess k (.read off 4) (if busReadData off s &&& mask = val then s.setProgram k ls else s) := by
  rw [runLine]
  split <;> rfl

/-- The accesses a line can stop on, with the fault each gives: an undefined transaction, and a POLL at an offset that
is not a multiple of 4 (R42, R141). -/
abbrev StopsWith (s : State) (l : Line) (f : Fault) : Prop :=
  (∃ off size, l = .access (.read off size) ∧ ¬ (size = 4 ∧ off.toNat % 4 = 0) ∧
    f = .busError (.read off size) (some (Config.draw32 s.draws))) ∨
  (∃ off size v, l = .access (.write off size v) ∧ ¬ (size = 4 ∧ off.toNat % 4 = 0) ∧
    f = .busError (.write off size v) none) ∨
  (∃ off mask val, l = .poll off mask val ∧ off.toNat % 4 ≠ 0 ∧
    f = .busError (.read off 4) (some (Config.draw32 s.draws)))

/-- A line goes on, or stops on an undefined access. -/
theorem runLine_next_or_stops (k : Nat) (l : Line) (ls : List Line) (s : State) :
    (∃ t, runLine k l ls s = .next t) ∨ ∃ f, runLine k l ls s = .fault f ∧ StopsWith s l f := by
  cases l with
  | access tr =>
    cases tr with
    | read off size =>
      by_cases h : size = 4 ∧ off.toNat % 4 = 0
      · exact .inl ⟨_, busAccess_read_of_defined h k (s.setProgram k ls)⟩
      · exact .inr ⟨_, busAccess_read_of_undefined h k (s.setProgram k ls), .inl ⟨off, size, rfl, h, rfl⟩⟩
    | write off size v =>
      by_cases h : size = 4 ∧ off.toNat % 4 = 0
      · obtain ⟨u, hu, -⟩ := busWrite_cases off v (s.setProgram k ls)
        exact .inl ⟨_, busAccess_write_of_defined h hu k⟩
      · exact .inr ⟨_, busAccess_write_of_undefined h k v (s.setProgram k ls), .inr (.inl ⟨off, size, v, rfl, h, rfl⟩)⟩
  | poll off mask val =>
    rw [runLine_poll]
    by_cases h : off.toNat % 4 = 0
    · exact .inl ⟨_, busAccess_read_of_defined ⟨rfl, h⟩ k _⟩
    · refine .inr ⟨_, busAccess_read_of_undefined (mt And.right h) k _, .inr (.inr ⟨off, mask, val, rfl, h, ?_⟩)⟩
      split <;> rfl

/-- In a state of the invariant the ENGINE's turn never stops: a pending command is there when BUSY = 1 (R30, R110). -/
theorem State.Inv.engineTurn_next {s : State} (h : s.Inv) : ∃ t, engineTurn s = .next t := by
  obtain ⟨-, hpend, -⟩ := h
  rcases engineTurn_cases s with ⟨hb, hp, -⟩ | ⟨u, hu, -⟩
  · exact absurd hp (hpend hb)
  · exact ⟨u, hu⟩

/-- A host that has no program, or none left, has a turn in which nothing is offered (R118). -/
theorem step_host_of_ended {s : State} {k : Nat} {ts : List Turn} (hturns : s.turns = .host k :: ts)
    (h : s.hosts[k]? = none ∨ s.hosts[k]? = some []) : step s = .next (s.withTurns ts) := by
  rw [step_host hturns, hostTurn, State.withTurns_hosts]
  rcases h with hnone | hempty
  · rw [hnone]
  · rw [hempty]

/-- Settles O49: of the three kinds of events, reset and the ENGINE's turn go on, and a host's line stops only on an
undefined access (`runLine_next_or_stops`). -/
theorem onlyUndefinedAccessesStop : Obligations.OnlyUndefinedAccessesStop := by
  intro s hs
  cases hturns : s.turns with
  | nil =>
    rw [step_unscheduled hturns]
    exact .inl hs.engineTurn_next
  | cons x ts =>
    have hmoved : (s.withTurns ts).Inv := (withTurns_sameBlock ts s).inv hs
    cases x with
    | engine =>
      rw [step_engine hturns]
      exact .inl hmoved.engineTurn_next
    | reset => exact .inl ⟨_, step_reset hturns⟩
    | host k =>
      cases hhost : s.hosts[k]? with
      | none => exact .inl ⟨_, step_host_of_ended hturns (.inl hhost)⟩
      | some program =>
        cases program with
        | nil => exact .inl ⟨_, step_host_of_ended hturns (.inr hhost)⟩
        | cons l ls =>
          have ho : Offers s k l ls ts := ⟨hturns, hhost⟩
          rw [step_offers ho]
          rcases runLine_next_or_stops k l ls (s.withTurns ts) with hnext | ⟨f, hf, hstops⟩
          · exact .inl hnext
          · exact .inr ⟨k, l, ls, ts, f, ho, hf, hstops⟩

/-- A run whose first step goes on. -/
theorem run_succ_of_next {M : Host.Core} {s u : M.State} (n : Nat) (h : M.step s = .next u) :
    M.run (n + 1) s = M.run n u := by
  rw [Host.Core.run, h]

/-- A run whose first step is a fault. -/
theorem run_succ_of_fault {M : Host.Core} {s : M.State} {f : M.Fault} (n : Nat) (h : M.step s = .fault f) :
    M.run (n + 1) s = .fault f := by
  rw [Host.Core.run, h]

/-- A run from a state that meets both invariants reaches such a state, or stops on a bus error. -/
theorem run_safe {s : State} (hs : s.Inv) (hg : s.EvenGroups) (n : Nat) :
    (∃ t : State, Host.Core.run core n s = .next t ∧ t.Inv ∧ t.EvenGroups) ∨
    ∃ tr d, Host.Core.run core n s = .fault (.busError tr d) := by
  induction n generalizing s with
  | zero => exact .inl ⟨s, rfl, hs, hg⟩
  | succ n ih =>
    rcases step_cases s with ⟨tr, d, hf⟩ | ⟨hb, hp, -⟩ | ⟨-, -, u, hu, -⟩
    · exact .inr ⟨tr, d, run_succ_of_fault (M := core) n hf⟩
    · obtain ⟨-, hpend, -⟩ := hs
      exact absurd hp (hpend hb)
    · rw [run_succ_of_next (M := core) n hu]
      exact ih (stepKeepsTheInvariant s u hs hu) (stepKeepsEvenGroups s u hg hu)

/-- Settles O50: the state right after reset meets both invariants, whatever the hosts and the schedule are. -/
theorem runsFromResetAreSafe : Obligations.RunsFromResetAreSafe := by
  intro m programs schedule n
  obtain ⟨hinv, hgroups⟩ := resetMeetsTheInvariant m
  exact run_safe (s := { State.resetAt m with hosts := programs, turns := schedule }) hinv hgroups n

end Sys2Proof.Machine
end

section
/-!
PROOFS. The corner cases of the encoding function (41_encoder.md section 3). A codeword is determined by its length, its
data bits and the evenness of its parity groups (`eq_hammingEncode`); for the words of all zeros and of all ones these
are easy to see.
-/

namespace Sys2Proof.Machine

/-- A parity bit of an even group is the XOR of the group's data bits (R97, R98). -/
theorem getD_paritySlot_of_even {k : Nat} {c : List Bool} (h : positionXor (covered k) c = false) :
    c.getD (2 ^ k - 1) false = dataParity k c := by
  rw [positionXor_covered] at h
  exact (bne_eq_false_iff_eq.1 h).symm

/-- Two words of one length that agree at the data positions, of which every parity group is even, are the same. -/
theorem eq_of_data_of_even {c d : List Bool} (hlen : c.length = d.length)
    (hdata : ∀ b < c.length, isPow2 (b + 1) = false → c.getD b false = d.getD b false)
    (hc : ∀ k, positionXor (covered k) c = false) (hd : ∀ k, positionXor (covered k) d = false) : c = d := by
  have hdata' : ∀ b, isPow2 (b + 1) = false → c.getD b false = d.getD b false := by
    intro b hp
    by_cases hb : b < c.length
    · exact hdata b hb hp
    · rw [List.getD_eq_default _ _ (by omega), List.getD_eq_default _ _ (by omega)]
  have hbits : ∀ b, c.getD b false = d.getD b false := by
    intro b
    cases hp : isPow2 (b + 1) with
    | false => exact hdata' b hp
    | true =>
      obtain ⟨k, hk⟩ := (isPow2_iff (Nat.add_one_ne_zero b)).1 hp
      obtain rfl : b = 2 ^ k - 1 := by omega
      rw [getD_paritySlot_of_even (hc k), getD_paritySlot_of_even (hd k)]
      exact dataParity_congr hlen hdata' k
  refine List.ext_getElem hlen fun b hb hb' => ?_
  rw [← List.getD_eq_getElem c false hb, ← List.getD_eq_getElem d false hb', hbits b]

/-- A word of a codeword's length, with the payload at its data positions and even parity groups, is the codeword. -/
theorem hammingEncode_eq {p c : List Bool} (hlen : c.length = codewordLength p.length)
    (hdata : ∀ i, 1 ≤ i → i ≤ codewordLength p.length → isPow2 i = false → i - Nat.log2 i - 2 < p.length →
      p.getD (i - Nat.log2 i - 2) false = c.getD (i - 1) false)
    (heven : ∀ k, positionXor (covered k) c = false) : hammingEncode p = c := by
  refine eq_of_data_of_even (by rw [length_hammingEncode, hlen]) (fun b hb hp => ?_)
    (positionXor_covered_hammingEncode p) heven
  rw [length_hammingEncode] at hb
  obtain ⟨-, -, hplaced⟩ := dataPlacement p
  obtain ⟨-, hindex, hbit⟩ := hplaced (b + 1) (Nat.le_add_left 1 b) hb hp
  exact hbit.trans (hdata (b + 1) (Nat.le_add_left 1 b) hb hp hindex)

-- All zeros

theorem getD_replicate_false (n b : Nat) : (List.replicate n false).getD b false = false := by
  by_cases hb : b < n <;> simp [hb]

theorem hammingEncode_replicate_false (m : Nat) :
    hammingEncode (List.replicate m false) = List.replicate (codewordLength m) false := by
  refine hammingEncode_eq (by simp) (fun i _ _ _ _ => ?_) fun k => positionXor_eq_false fun b => ?_
  · rw [getD_replicate_false, getD_replicate_false]
  · rw [getD_replicate_false, Bool.and_false]

-- All ones

theorem positionXor_nil (f : Nat → Bool) : positionXor f [] = false := rfl

theorem covered_zero (k : Nat) : covered k 0 = false := by simp [covered]

/-- The XOR over a word in two parts: the positions of the second go on where the first ends. -/
theorem positionXor_append (f : Nat → Bool) (c d : List Bool) :
    positionXor f (c ++ d) = (positionXor f c ^^ positionXor (fun t => f (t + c.length)) d) := by
  induction c generalizing f with
  | nil => exact (Bool.false_xor _).symm
  | cons x c ih =>
    rw [List.cons_append, positionXor_cons, positionXor_cons, ih, Bool.xor_assoc]
    rfl

/-- Of four numbers in a row, the first a multiple of 4, an even number has bit `k` set. -/
theorem covered_four (k n : Nat) :
    (covered k (2 ^ 2 * n + 0) ^^ (covered k (2 ^ 2 * n + 1) ^^ (covered k (2 ^ 2 * n + 2) ^^
      covered k (2 ^ 2 * n + 3)))) = false := by
  have hbit : ∀ j < 2 ^ 2, covered k (2 ^ 2 * n + j) = if k < 2 then j.testBit k else n.testBit (k - 2) :=
    fun j hj => by rw [covered_eq_testBit, Nat.testBit_two_pow_mul_add n hj]
  rw [hbit 0 (by decide), hbit 1 (by decide), hbit 2 (by decide), hbit 3 (by decide)]
  by_cases hk : k < 2
  · simp only [if_pos hk]
    interval_cases k <;> decide
  · simp [hk]

/-- The numbers below a multiple of 4, taken four at a time: an even number of them has bit `k` set. -/
theorem positionXor_covered_pred_replicate_true (k n : Nat) :
    positionXor (fun t => covered k (t - 1)) (List.replicate (4 * n) true) = false := by
  induction n with
  | zero => rfl
  | succ n ih =>
    have hfour := covered_four k n
    rw [Nat.mul_succ, List.replicate_add, positionXor_append, ih, List.length_replicate, Bool.false_xor]
    simpa [List.replicate_succ, positionXor_cons, positionXor_nil, Nat.add_comm, Nat.add_left_comm] using hfour

/-- A word of all ones that ends one position before a multiple of 4 has even groups: its positions are the numbers
below that multiple but 0, which has no bit set. -/
theorem positionXor_covered_replicate_true {k n : Nat} (hn : (n + 1) % 4 = 0) :
    positionXor (covered k) (List.replicate n true) = false := by
  have hpred := positionXor_covered_pred_replicate_true k ((n + 1) / 4)
  rw [Nat.mul_div_cancel' (Nat.dvd_of_mod_eq_zero hn), List.replicate_succ, positionXor_cons] at hpred
  simpa [covered_zero] using hpred

/-- The payload of a perfect length (R81). -/
theorem plan_perfect {r : Nat} (h : 2 ≤ r) : plan (2 ^ r - r - 1) = r := by
  have hr : r < 2 ^ r := Nat.lt_two_pow_self
  have hhalf : 2 ^ r = 2 * 2 ^ (r - 1) := by rw [← pow_succ', Nat.sub_add_cancel (by omega)]
  rw [plan_eq_iff_of_pos (by omega)]
  omega

theorem codewordLength_perfect {r : Nat} (h : 2 ≤ r) : codewordLength (2 ^ r - r - 1) = 2 ^ r - 1 := by
  have hr : r < 2 ^ r := Nat.lt_two_pow_self
  rw [codewordLength, plan_perfect h]
  omega

theorem hammingEncode_replicate_true {r : Nat} (h : 2 ≤ r) :
    hammingEncode (List.replicate (2 ^ r - r - 1) true) = List.replicate (2 ^ r - 1) true := by
  have hlen := codewordLength_perfect h
  refine hammingEncode_eq (by simp [hlen]) (fun i hi hn _ hindex => ?_) fun k => ?_
  · rw [List.length_replicate, hlen] at hn
    rw [List.length_replicate] at hindex
    simp [hindex, show i - 1 < 2 ^ r - 1 by omega]
  · have hfour : 2 ^ 2 ∣ 2 ^ r := pow_dvd_pow 2 h
    exact positionXor_covered_replicate_true (by rw [two_pow_sub_one_add_one]; omega)

/-- Settles O13: the words of all zeros and of all ones have the data bits and the even groups of the codeword. -/
theorem encodeCornerCases : Obligations.EncodeCornerCases := by
  refine ⟨rfl, fun b => ?_, hammingEncode_replicate_false, fun r => hammingEncode_replicate_true⟩
  cases b <;> decide

end Sys2Proof.Machine
end

section
/-!
PROOFS. The command ENCODE (R101, D30) and what failed commands keep (R166). `exec_encode_of_le` is its outcome for a
length the block can hold, which depends on the operand bits alone (`payloadBits_congr_bits`).
-/

namespace Sys2Proof.Machine

theorem exec_encode_of_le {s : State} (h : s.len.toNat ≤ s.mMax.val) :
    exec .encode s = .next
      (((s.writeCodeword (hammingEncode (payloadBits s))).writeResult s.len.toNat).complete errOk) :=
  execEncode_of_fits (s.lenFits_iff.2 h)

/-- Element j of ENCODE's operand is PAYLOAD bit j (R62). -/
theorem getD_payloadBits {s : State} {j : Nat} (h : j < s.len.toNat) :
    (payloadBits s).getD j false = s.pay.getLsbD j := by
  simp [payloadBits, h]

/-- A slot of CODEWORD shows the position of the codeword it stores: a codeword of the block fits the buffer (R29). -/
theorem getLsbD_codewordBuffer_hammingEncode {s : State} {p : List Bool} (hp : p.length ≤ s.mMax.val) (b : Nat) :
    (codewordBuffer (hammingEncode p)).getLsbD b = (hammingEncode p).getD b false := by
  have hfits : codewordLength p.length ≤ 2047 := (codewordLength_mono hp).trans s.nMax_le
  rw [getLsbD_codewordBuffer]
  by_cases hb : b < 2048
  · rw [decide_eq_true hb, Bool.true_and]
  · rw [List.getD_eq_default _ _ (by rw [length_hammingEncode]; omega), Bool.and_false]

/-- What ENCODE stores, stored once more, changes nothing. -/
theorem storeCodeword_twice (c : List Bool) (m : Nat) (s : State) :
    (((((s.writeCodeword c).writeResult m).complete errOk).writeCodeword c).writeResult m).complete errOk =
      ((s.writeCodeword c).writeResult m).complete errOk := rfl

/-- ENCODE leaves its operands alone, so the same command once more has the same outcome (R101). -/
theorem exec_encode_twice {s t : State} (hs : s.len.toNat ≤ s.mMax.val) (h : exec .encode s = .next t) :
    exec .encode t = .next t := by
  rw [exec_encode_of_le hs] at h
  generalize hc : hammingEncode (payloadBits s) = c at h
  cases h
  have hbits : payloadBits (((s.writeCodeword c).writeResult s.len.toNat).complete errOk) = payloadBits s :=
    payloadBits_congr rfl rfl
  rw [exec_encode_of_le (s := ((s.writeCodeword c).writeResult s.len.toNat).complete errOk) hs, hbits, hc]
  exact congrArg _ (storeCodeword_twice c s.len.toNat s)

/-- Settles O16: the outcome of ENCODE for a length that fits, and that it leaves its operands alone. -/
theorem encodeCommandEffect : Obligations.EncodeCommandEffect := by
  intro s h
  have hexec := exec_encode_of_le h
  have hlen := length_payloadBits s
  have hslot := getLsbD_codewordBuffer_hammingEncode (s := s) (p := payloadBits s) (by rwa [hlen])
  obtain ⟨hR, hN⟩ := toNat_writeResult h
  refine ⟨payloadBits s, _, hexec, ⟨hlen, fun j hj => getD_payloadBits (by rwa [← hlen])⟩,
    fun b _ => hslot b, fun b hb => (hslot b).trans ?_, hR, hN, ?_, exec_encode_twice h hexec⟩
  · exact List.getD_eq_default _ _ (by rwa [length_hammingEncode, hlen])
  · generalize hammingEncode (payloadBits s) = c
    rfl

/-- The operand of ENCODE is the PAYLOAD bits below LEN, whatever stands beyond them (D30). -/
theorem payloadBits_congr_bits {s u : State} (hlen : s.len = u.len)
    (hpay : ∀ j < s.len.toNat, s.pay.getLsbD j = u.pay.getLsbD j) : payloadBits s = payloadBits u := by
  rw [payloadBits, payloadBits, ← hlen]
  exact List.map_congr_left fun j hj => hpay j (List.mem_range.1 hj)

/-- Settles O20: both outcomes of ENCODE are functions of LEN, M_MAX and the operand. -/
theorem encodeDependsOnlyOnItsOperands : Obligations.EncodeDependsOnlyOnItsOperands := by
  intro s u hlen hmax hpay
  have hbits := payloadBits_congr_bits hlen hpay
  by_cases h : s.len.toNat ≤ s.mMax.val
  · have hu : u.len.toNat ≤ u.mMax.val := by rwa [← hlen, ← hmax]
    refine ⟨_, _, exec_encode_of_le h, exec_encode_of_le hu, rfl, fun _ => ⟨?_, ?_, ?_⟩⟩
    · exact congrArg (codewordBuffer ∘ hammingEncode) hbits
    · simp [hlen]
    · simp [hlen]
  · have hu : u.mMax.val < u.len.toNat := by rw [← hlen, ← hmax]; omega
    exact ⟨_, _, exec_encode_of_lt (by omega), exec_encode_of_lt hu, rfl, fun hle => absurd hle h⟩

/-- Settles O45: of the outcomes of a command, those that report an error only end the ENGINE's step. -/
theorem staleResultsAreKept : Obligations.StaleResultsAreKept := by
  intro i s t h
  rcases exec_cases h with ⟨rfl, rfl⟩ | ⟨-, -, rfl⟩ | ⟨rfl, -, rfl⟩ | ⟨rfl, -, rfl⟩ | ⟨rfl, rfl⟩ | ⟨⟨c, hi⟩, rfl⟩
  case inl => exact ⟨nofun, fun _ hnop => absurd rfl hnop⟩
  case inr.inr.inl => exact ⟨fun _ => rfl, fun herr => absurd rfl herr⟩
  case inr.inr.inr.inl | inr.inr.inr.inr.inl => exact ⟨nofun, fun herr => absurd rfl herr⟩
  case inr.inl | inr.inr.inr.inr.inr => exact ⟨fun _ => rfl, fun _ _ => ⟨⟨rfl, rfl, rfl, rfl, rfl⟩, rfl⟩⟩

end Sys2Proof.Machine
end

section
/-!
PROOFS. What host reads show (20_memory.md, 42_control.md section 4, R116): the value at every offset, that reading
leaves the block as it was, and where the registers stand (R40, R41).
-/

namespace Sys2Proof.Machine

-- The registers by their offsets

/-- PAYLOAD[w] stands at one aligned offset alone (R41). -/
theorem eq_of_targetOf_payload {off : Offset} {w : Nat} (h4 : off.toNat % 4 = 0) (h : targetOf off = .payload w) :
    off = BitVec.ofNat 10 (0x100 + 4 * w) := by
  simp only [targetOf] at h
  split_ifs at h with _ _ _ _ _ hpay
  obtain rfl : (off.toNat - 0x100) / 4 = w := by simpa using h
  apply BitVec.eq_of_toNat_eq
  rw [BitVec.toNat_ofNat]
  omega

/-- Of the aligned offsets, those of no register (R41, R43). -/
theorem targetOf_eq_unmapped_iff {off : Offset} (h4 : off.toNat % 4 = 0) :
    targetOf off = .unmapped ↔ (0x014 ≤ off.toNat ∧ off.toNat < 0x100 ∨ 0x300 ≤ off.toNat) := by
  refine ⟨fun h => ?_, targetOf_unmapped h4⟩
  simp only [targetOf] at h
  split_ifs at h
  omega

/-- Settles O32: each register by its offset. -/
theorem registerMap : Obligations.RegisterMap := by
  refine ⟨rfl, rfl, rfl, rfl, rfl, fun w => ⟨targetOf_payload w.isLt, ?_⟩, fun w => ⟨targetOf_codeword w.isLt, ?_⟩,
    fun off => targetOf_eq_unmapped_iff⟩
  · exact Nat.mod_eq_of_lt (by omega)
  · exact Nat.mod_eq_of_lt (by omega)

/-- Settles O33: the address and the offset of the window are inverse to each other. -/
theorem windowStandsAtBase : Obligations.WindowStandsAtBase := by
  have hiff : ∀ (a : Nat) (off : Offset), windowOffset a = some off ↔ a = Config.base + off.toNat := by
    intro a off
    have hlt := off.isLt
    rw [windowOffset]
    split
    · rw [Option.some.injEq, ← BitVec.toNat_inj, BitVec.toNat_ofNat]
      omega
    · simp only [reduceCtorEq, false_iff]
      omega
  exact ⟨Nat.mul_mod_right _ _, fun off => (hiff _ off).2 rfl, hiff⟩

-- What a read returns

/-- A read of a PAYLOAD word (R28). -/
theorem getLsbD_busReadData_payload {w b : Nat} (hw : w < 64) (hb : b < 32) (s : State) :
    (busReadData (BitVec.ofNat 10 (0x100 + 4 * w)) s).getLsbD b =
      (decide (32 * w + b < s.mMax.val) && s.pay.getLsbD (32 * w + b)) := by
  rw [busReadData_of_not_draws (readDraws_of_not_result (by rw [targetOf_payload hw]; rfl)), targetOf_payload hw,
    targetWord, getLsbD_bufferWord, decide_eq_true hb, Bool.true_and, Bool.and_comm]

/-- A read of a CODEWORD word in an idle block (R29). -/
theorem busReadData_codeword {w : Nat} (hw : w < 64) {s : State} (h : s.busy = false) :
    busReadData (BitVec.ofNat 10 (0x200 + 4 * w)) s = bufferWord s.nMax w s.cw := by
  rw [busReadData_of_not_draws (readDraws_of_idle h), targetOf_codeword hw, targetWord]

theorem getLsbD_busReadData_codeword {w b : Nat} (hw : w < 64) (hb : b < 32) {s : State} (h : s.busy = false) :
    (busReadData (BitVec.ofNat 10 (0x200 + 4 * w)) s).getLsbD b =
      (decide (32 * w + b < s.nMax) && s.cw.getLsbD (32 * w + b)) := by
  rw [busReadData_codeword hw h, getLsbD_bufferWord, decide_eq_true hb, Bool.true_and, Bool.and_comm]

/-- A read of a result while BUSY = 1 is a draw (R26, R29). -/
theorem readDraws_of_busy {off : Offset} {s : State} (ht : (targetOf off).isResult = true) (h : s.busy = true) :
    readDraws off s = true := by
  rw [readDraws, ht, h]
  rfl

/-- A read changes nothing outside the block but the number of draws (R45). -/
theorem afterRead_sameHosts (off : Offset) (s : State) :
    (afterRead off s).hosts = s.hosts ∧ (afterRead off s).turns = s.turns ∧ (afterRead off s).seen = s.seen := by
  rw [afterRead]
  split
  · exact ⟨rfl, rfl, rfl⟩
  · exact ⟨rfl, rfl, rfl⟩

/-- Settles O23: the two outcomes of a read access, and the value at each offset. -/
theorem busReadValues : Obligations.BusReadValues := by
  refine fun s => ⟨fun k off h4 => ?defined, fun k off size h => busAccess_read_of_undefined h k s, rfl, ?status, ?len,
    fun hb => busReadData_of_draws (readDraws_of_busy rfl hb), fun hb => ?result, ?id,
    fun w hw b hb => getLsbD_busReadData_payload hw hb s, fun w hw hb => ?draw,
    fun w hw b hb h => getLsbD_busReadData_codeword hw hb h, fun off h4 hoff => ?unmapped⟩
  case defined =>
    obtain ⟨hhosts, hturns, hseen⟩ := afterRead_sameHosts off s
    have hread := busAccess_read_of_defined ⟨rfl, h4⟩ k s
    exact ⟨_, hread, busAccess_read_sameBlock hread, hhosts, hturns, congrArg _ hseen⟩
  case status => rw [busReadData_status, toNat_statusWord]
  case len =>
    rw [busReadData_len, lenWord]
    exact BitVec.toNat_setWidth_of_le (by decide)
  case result =>
    rw [busReadData_result hb, toNat_resultWord]
    omega
  case id =>
    rw [busReadData_id, toNat_idWord, Config.version]
    omega
  case draw => exact busReadData_of_draws (readDraws_of_busy (by rw [targetOf_codeword hw]; rfl) hb)
  case unmapped =>
    obtain ⟨hread, -⟩ := unmappedOffsetsReadZeroAndIgnoreWrites s off 0 h4 hoff
    exact hread

-- What a read leaves alone

/-- A read that is no draw leaves all of the state but the record of its response (R45). -/
theorem afterRead_of_not_draws {off : Offset} {s : State} (h : readDraws off s = false) : afterRead off s = s := by
  rw [afterRead, h]
  rfl

/-- Settles O30: a read and one turn of a POLL leave the block as it was, and a read that is no draw leaves the number
of draws as well. -/
theorem readsHaveNoSideEffects : Obligations.ReadsHaveNoSideEffects := by
  refine ⟨fun s t k l ls ts ho hl h => ?block, fun s t k off h hdraw off' _ => ?repeated⟩
  case block =>
    rw [step_offers ho] at h
    rcases hl with ⟨off, size, rfl⟩ | ⟨off, mask, val, rfl⟩
    · exact busAccess_read_sameBlock (s := s.took k ls ts) h
    · exact runLine_poll_sameBlock (s := s.withTurns ts) h
  case repeated =>
    have hnot : readDraws off s = false := hdraw.elim readDraws_of_idle readDraws_of_not_result
    have hsame := busAccess_read_sameBlock h
    rw [busAccess_read, afterRead_of_not_draws hnot] at h
    split at h
    · cases h
      exact busReadData_congr hsame rfl off'
    · cases h

-- What a write of PAYLOAD shows

/-- A write of PAYLOAD[w] is seen in the register PAYLOAD[w] alone (R28). -/
theorem targetWord_writePayload_of_ne {x : Target} {w : Nat} (h : x ≠ .payload w) (v : Word) (s : State) :
    targetWord (s.writePayload w v) x = targetWord s x := by
  cases x with
  | payload w' =>
    have hne : w' ≠ w := fun h' => h (congrArg _ h')
    apply BitVec.eq_of_getLsbD_eq
    intro b hb
    rw [targetWord, targetWord, getLsbD_bufferWord, getLsbD_bufferWord,
      getLsbD_writePayload_of_outside (show 32 * w' + b < 32 * w ∨ 32 * w + 32 ≤ 32 * w' + b ∨ _ by omega)]
    rfl
  | ctrl | status | len | result | id | codeword | unmapped => rfl

/-- Settles O29: the written word shows the bits it stored, and every other register what it showed before. -/
theorem payloadWordsReadBack : Obligations.PayloadWordsReadBack := by
  intro s w v hw hb
  refine ⟨s.writePayload w v, by rw [busWrite_payload hw, hb]; rfl, fun b hlt => ?_, fun off h4 hne => ?_⟩
  · rw [getLsbD_busReadData_payload hw hlt, Bool.and_comm]
    by_cases hm : 32 * w + b < s.mMax.val
    · rw [getLsbD_writePayload_of_lt hlt hm, State.writePayload_mMax]
    · simp [hm]
  · rw [busReadData_of_not_draws (s := s.writePayload w v) (readDraws_of_idle hb),
      busReadData_of_not_draws (s := s) (readDraws_of_idle hb)]
    exact targetWord_writePayload_of_ne (mt (eq_of_targetOf_payload h4) hne) v s

/-- Settles O31: the host's number is only recorded beside the response. -/
theorem hostsAreTreatedAlike : Obligations.HostsAreTreatedAlike := by
  intro s j k t
  cases t with
  | read off size =>
    by_cases h : size = 4 ∧ off.toNat % 4 = 0
    · obtain ⟨-, -, hseen⟩ := afterRead_sameHosts off s
      refine .inr ⟨afterRead off s, .data (busReadData off s), ?_, ?_⟩
      · rw [busAccess_read_of_defined h, State.observe, hseen]
      · rw [busAccess_read_of_defined h, State.observe, hseen]
    · exact .inl ⟨_, busAccess_read_of_undefined h j s, busAccess_read_of_undefined h k s⟩
  | write off size v =>
    by_cases h : size = 4 ∧ off.toNat % 4 = 0
    · obtain ⟨u, hu, -⟩ := busWrite_cases off v s
      obtain ⟨-, -, hseen, -⟩ := busWrite_sameWorld hu
      refine .inr ⟨u, .ack, ?_, ?_⟩
      · rw [busAccess_write_of_defined h hu, State.observe, hseen]
      · rw [busAccess_write_of_defined h hu, State.observe, hseen]
    · exact .inl ⟨_, busAccess_write_of_undefined h j v s, busAccess_write_of_undefined h k v s⟩

end Sys2Proof.Machine
end

section
/-!
PROOFS. The events (42_control.md sections 1 and 2, R110, R118): which event performs a command, starts one, ends one or
changes the block. `step_of_engineIsNext` is the ENGINE's step; every "only" is a case of `step_next_cases`.
-/

namespace Sys2Proof.Machine

-- The ENGINE's step

/-- The step that performs the pending command (R110). -/
theorem step_of_engineIsNext {s : State} (he : EngineIsNext s) (hp : s.pend ≠ 0#4) :
    step s = exec (decodeCode s.pend) (s.withTurns s.turns.tail) := by
  obtain ⟨hb, hturns | ⟨ts, hturns⟩⟩ := he
  · have hs : s.withTurns s.turns.tail = s := by ext <;> simp [hturns]
    rw [hs, step_unscheduled hturns, engineTurn_of_pending hb hp]
  · rw [step_engine hturns, hturns]
    exact engineTurn_of_pending (s := s.withTurns ts) hb hp

/-- The ENGINE's turn in an idle block changes nothing (R118). -/
theorem engineTurn_of_idle {s : State} (h : s.busy = false) : engineTurn s = .next s := by
  rw [engineTurn, h]
  rfl

/-- A write to the window never ends a command. -/
theorem busy_of_busWrite {off : Offset} {v : Word} {s t : State} (hb : s.busy = true)
    (h : busWrite off v s = .next t) : t.busy = true := by
  rcases busWrite_of_busy hb h with rfl | rfl
  · exact hb
  · exact hb

/-- Settles O36: the ENGINE's step ends the command it performs, and of the other events only reset does. -/
theorem engineStepIsEnabledExactlyWhenBusy : Obligations.EngineStepIsEnabledExactlyWhenBusy := by
  refine ⟨fun s he hp => ?performed, fun s => engineTurn_of_idle, fun s t h hs ht => ?ended⟩
  case performed =>
    obtain ⟨t, hexec⟩ := exec_next (decodeCode s.pend) (s.withTurns s.turns.tail)
    exact ⟨t, (step_of_engineIsNext he hp).trans hexec, hexec,
      exec_completes (mt (decodeCode_eq_nop_iff _).1 hp) hexec⟩
  case ended =>
    rcases step_next_cases h with ⟨ts, hts, -⟩ | ⟨he, -⟩ | ⟨k, off, v, ls, ts, u, -, -, hu, rfl⟩ | ⟨-, ⟨hbusy, -⟩, -⟩
    · exact .inr ⟨ts, hts⟩
    · exact .inl he
    · rw [State.observe_busy, busy_of_busWrite (s := s.took k ls ts) hs hu] at ht
      exact Bool.noConfusion ht
    · rw [hbusy, hs] at ht
      exact Bool.noConfusion ht

/-- Settles O39: reset is one event, and BUSY rises in a step only when a command is accepted. -/
theorem resetAbandonsThePendingCommand : Obligations.ResetAbandonsThePendingCommand := by
  refine ⟨fun s ts hturns => ?reset, fun s t h hs ht => ?raised⟩
  case reset =>
    exact ⟨_, step_reset hturns, resetAt_sameBlock_resetBlock (s.withTurns ts), rfl, rfl, rfl, rfl, rfl⟩
  case raised =>
    rcases step_next_cases h with ⟨ts, -, rfl⟩ | ⟨⟨hb, -⟩, -⟩ | ⟨k, off, v, ls, ts, -, ho, -⟩ | ⟨-, ⟨hbusy, -⟩, -⟩
    · exact Bool.noConfusion ht
    · exact absurd hb (by simp [hs])
    · refine ⟨k, _, ls, ts, ho, ?_⟩
      by_contra haccepts
      have hdropped : ¬ IsDropped s (.write off 4 v) := fun ⟨_, _, _, hb, _⟩ => by simp [hs] at hb
      rw [step_offers_access ho] at h
      obtain ⟨hbusy, -⟩ := busAccess_sameFlags (s := s.took k ls ts) haccepts hdropped h
      exact Bool.noConfusion (ht.symm.trans (hbusy.trans hs))
    · exact Bool.noConfusion (ht.symm.trans (hbusy.trans hs))

/-- Settles O41: the cases of `step_next_cases`, and the two turns in which nothing is offered. -/
theorem onlyTheThreeEventsChangeTheBlock : Obligations.OnlyTheThreeEventsChangeTheBlock := by
  refine ⟨fun s t h hchange => ?changed, fun s hb hturns => ?unscheduled, fun s k ts => step_host_of_ended⟩
  case changed =>
    rcases step_next_cases h with ⟨ts, hts, -⟩ | ⟨he, -⟩ | ⟨k, off, v, ls, ts, -, ho, -⟩ | hsame
    · exact .inl ⟨ts, hts⟩
    · exact .inr (.inl he)
    · exact .inr (.inr ⟨k, off, v, ls, ts, ho⟩)
    · exact absurd hsame hchange
  case unscheduled => rw [step_unscheduled hturns, engineTurn_of_idle hb]

-- The decoded instruction

/-- Settles O34: the ENGINE's step and the outcomes of a write of CTRL, with the instruction named by its decoding. -/
theorem stepPerformsTheDecodedInstruction : Obligations.StepPerformsTheDecodedInstruction := by
  refine ⟨?scheduled, ?unscheduled, fun s k v i ls ts ho hdecode => ?written⟩
  case scheduled =>
    rintro s ts i hturns hb hp rfl
    rw [step_of_engineIsNext ⟨hb, .inr ⟨ts, hturns⟩⟩ hp, hturns]
    rfl
  case unscheduled =>
    rintro s i hturns hb hp rfl
    rw [step_unscheduled hturns, engineTurn_of_pending hb hp]
  case written =>
    obtain rfl : decodeCmd v = i := by
      have hword := decode_bytesOfWord v []
      rw [List.append_nil, hdecode] at hword
      cases hword
      rfl
    rw [step_offers_access ho]
    refine ⟨fun hnop => ?_, fun hne hb => ?_⟩
    · rw [hnop, busAccess_write, if_pos (by decide), busWrite_ctrl, ctrlWrite, hnop]
      rfl
    · have hc : cmdField v ≠ 0#4 := by rwa [decodeCmd_eq_decodeCode, ne_eq, decodeCode_eq_nop_iff] at hne
      have hwrite : busWrite 0x000 v (s.took k ls ts) = .next ((s.took k ls ts).accept (cmdField v)) :=
        ctrlWrite_of_idle (mt cmdField_eq_zero_iff.2 hc) hb
      refine ⟨_, busAccess_write_of_defined ⟨rfl, rfl⟩ hwrite k, rfl, ?_, (decodeCmd_eq_decodeCode v).symm⟩
      rw [decodeCmd_eq_decodeCode, code_decodeCode]
      rfl

/-- A command is loaded by its acceptance, with the ENGINE's turn next (log entry 8). -/
theorem loadCommand_of_ne_nop {v : Word} (h : decodeCmd v ≠ .nop) (s : State) :
    s.loadCommand v = (s.accept (cmdField v)).withTurns (.engine :: s.turns) := by
  unfold State.loadCommand
  split
  next hnop => exact absurd hnop h
  next => rfl

/-- NOP is loaded as the one line of a host that comes after all others, with that host's turn next (log entry 8). -/
theorem loadCommand_of_nop {v : Word} (h : decodeCmd v = .nop) (s : State) :
    Offers (s.loadCommand v) s.hosts.length (.access (.write 0x000 4 v)) [] s.turns ∧
      SameBlock s (s.loadCommand v) := by
  rw [State.loadCommand, h]
  exact ⟨⟨rfl, List.getElem?_concat_length ..⟩, SameBlock.refl s⟩

/-- Settles O35: `withFetchWord` is an acceptance with the ENGINE next, or for NOP a host that writes the word. -/
theorem fetchWordIsPerformedNext : Obligations.FetchWordIsPerformedNext := by
  intro s nbits w i hdecode
  rw [decodeTableWord_eq, Option.some.injEq] at hdecode
  rw [State.withFetchWord]
  generalize BitVec.ofNat 32 (w % 2 ^ nbits) = v at *
  refine ⟨fun hne => ?command, fun hnop => ?nop⟩
  case command =>
    subst hdecode
    have hc : cmdField v ≠ 0#4 := by rwa [decodeCmd_eq_decodeCode, ne_eq, decodeCode_eq_nop_iff] at hne
    rw [loadCommand_of_ne_nop hne, step_engine rfl, decodeCmd_eq_decodeCode, code_decodeCode]
    exact engineTurn_accept hc s
  case nop =>
    subst hnop
    obtain ⟨hoffers, hloaded⟩ := loadCommand_of_nop hdecode s
    have hv : v.toNat % 16 = 0 := by
      rwa [← cmdField_eq_zero_iff, ← decodeCode_eq_nop_iff, ← decodeCmd_eq_decodeCode]
    obtain ⟨-, hwritten⟩ := nopChangesNothing
    obtain ⟨t, ht, hsame, -⟩ := hwritten _ _ v _ _ hoffers hv
    exact ⟨t, ht, hloaded.trans hsame⟩

-- Pending commands and their results

/-- A run in two parts. -/
theorem run_add_of_next {M : Host.Core} {n : Nat} {s t : M.State} (h : M.run n s = .next t) (m : Nat) :
    M.run (n + m) s = M.run m t := by
  induction n generalizing s with
  | zero => cases h; rw [Nat.zero_add]
  | succ n ih =>
    obtain ⟨u, hu, hrun⟩ := run_succ_next h
    rw [Nat.add_right_comm, run_succ_of_next (n + m) hu, ih hrun]

/-- A run of one step. -/
theorem run_one_of_next {M : Host.Core} {s t : M.State} (h : M.step s = .next t) : M.run 1 s = .next t :=
  run_succ_of_next 0 h

/-- Settles O43: the host events leave the pending command and its operands alone (`run_hosts_of_busy`), and then the
ENGINE is next. -/
theorem pendingCommandIsPerformed : Obligations.PendingCommandIsPerformed := by
  intro s t hb hp hhosts hrun
  have hkept := run_hosts_of_busy hb le_rfl (fun x hx => hhosts x (List.mem_of_mem_take hx)) hrun
  rw [List.drop_length] at hkept
  obtain ⟨htb, htp, ⟨hlen, hpay, -⟩, -, hturns⟩ := hkept
  obtain ⟨u, hu⟩ := exec_next (decodeCode s.pend) t
  obtain ⟨hbusy, hdone, -⟩ := exec_completes (mt (decodeCode_eq_nop_iff _).1 hp) hu
  have hstep : step t = .next u := by
    rw [step_unscheduled hturns, engineTurn_of_pending htb (htp ▸ hp), htp]
    exact hu
  have hnext := (run_add_of_next (M := core) hrun 1).trans (run_one_of_next (M := core) hstep)
  exact ⟨u, hnext, hu, hlen, hpay, hbusy, hdone⟩

/-- RESULT and CODEWORD hold the same. -/
abbrev SameResults (s t : State) : Prop := t.cw = s.cw ∧ t.resN = s.resN ∧ t.resR = s.resR

/-- A command leaves RESULT and CODEWORD alone, or it is PLAN, ENCODE or CLEAR (R49). -/
theorem exec_sameResults_or {c : Code} {s t : State} (h : exec (decodeCode c) s = .next t) :
    SameResults s t ∨ c = 0x1#4 ∨ c = 0x2#4 ∨ c = 0x3#4 := by
  have hcode := code_decodeCode c
  rcases exec_cases h with ⟨-, rfl⟩ | ⟨-, -, rfl⟩ | ⟨hi, -⟩ | ⟨hi, -⟩ | ⟨hi, -⟩ | ⟨-, rfl⟩
  case inl | inr.inl | inr.inr.inr.inr.inr => exact .inl ⟨rfl, rfl, rfl⟩
  all_goals
    rw [hi] at hcode
    simp [← hcode, Instr.code]

/-- No write to the window reaches RESULT or CODEWORD (R117). -/
theorem busWrite_sameResults {off : Offset} {v : Word} {s t : State} (h : busWrite off v s = .next t) :
    SameResults s t := by
  obtain ⟨u, hu, hcases⟩ := busWrite_cases off v s
  rw [hu] at h
  cases h
  rcases hcases with rfl | ⟨-, rfl⟩ | ⟨-, -, rfl⟩ | ⟨-, rfl⟩ | ⟨-, w, rfl⟩
  all_goals exact ⟨rfl, rfl, rfl⟩

/-- A step leaves RESULT and CODEWORD alone, or is reset or the ENGINE's step of PLAN, ENCODE or CLEAR (R49). -/
theorem step_sameResults_or {s t : State} (h : step s = .next t) :
    SameResults s t ∨ ResetIsNext s ∨ (EngineIsNext s ∧ (s.pend = 0x1#4 ∨ s.pend = 0x2#4 ∨ s.pend = 0x3#4)) := by
  rcases step_next_cases h with
    ⟨ts, hts, -⟩ | ⟨he, -, hexec⟩ | ⟨k, off, v, ls, ts, u, -, -, hu, rfl⟩ | ⟨⟨-, -, hresults⟩, -⟩
  · exact .inr (.inl ⟨ts, hts⟩)
  · exact (exec_sameResults_or hexec).imp id fun hc => .inr ⟨he, hc⟩
  · exact .inl (busWrite_sameResults (s := s.took k ls ts) (t := u) hu)
  · exact .inl hresults

/-- No event changes M_MAX (R5). -/
theorem BlockEvent.mMax {s t : State} (h : BlockEvent s t) : t.mMax = s.mMax := by
  cases h with
  | none h | reset h | dropped _ h | accepted _ _ _ h | lenWritten _ _ h | payloadWritten _ _ _ h => subst h; rfl
  | engine _ _ h =>
    obtain ⟨hm, -⟩ := exec_frame h
    exact hm

theorem step_mMax {s t : State} (h : step s = .next t) : t.mMax = s.mMax := by
  obtain ⟨v, w, ⟨-, -, hv⟩, he, ⟨-, -, hw⟩⟩ := blockEvent_of_step h
  rw [hw, he.mMax, hv]

/-- Settles O44: what `step_sameResults_or` keeps is what an idle block shows in RESULT and in the CODEWORD window. -/
theorem resultsHoldUntilTheNextCommand : Obligations.ResultsHoldUntilTheNextCommand := by
  refine ⟨fun s t h hchange => ?changed, fun s t h hs ht hreset => ?held⟩
  case changed =>
    refine (step_sameResults_or h).resolve_left fun ⟨hcw, hN, hR⟩ => ?_
    simp [hcw, hN, hR] at hchange
  case held =>
    have hengine : ¬ EngineIsNext s := fun ⟨hb, _⟩ => Bool.noConfusion (hs.symm.trans hb)
    obtain ⟨hcw, hN, hR⟩ : SameResults s t :=
      (step_sameResults_or h).resolve_right fun hor => hor.elim hreset fun ⟨he, _⟩ => hengine he
    refine ⟨?_, fun w hw => ?_⟩
    · rw [busReadData_result ht, busReadData_result hs, resultWord, resultWord, hN, hR]
    · rw [busReadData_codeword hw ht, busReadData_codeword hw hs, State.nMax_congr (step_mMax h), hcw]

end Sys2Proof.Machine
end

section
/-!
PROOFS. WAIT (R68, R122). The line reads STATUS and looks at BUSY alone, so its two outcomes are those of a busy and of
an idle block; `run_engine_then_wait` joins the ENGINE's step and the read after it.
-/

namespace Sys2Proof.Machine

/-- What WAIT compares: bit 0 of STATUS is BUSY (R24, R68). -/
theorem statusWord_and_one_eq_zero_iff (s : State) : statusWord s &&& 0x1 = 0x0 ↔ s.busy = false := by
  unfold statusWord
  generalize s.err = e, s.ovr = o, s.done = d, s.busy = b
  revert e o d b
  decide

/-- One turn of WAIT: it reads STATUS, and its line ends if BUSY = 0. -/
theorem runLine_wait (k : Nat) (ls : List Line) (s : State) :
    runLine k waitLine ls s =
      .next ((if s.busy = false then s.setProgram k ls else s).observe k (.data (statusWord s))) := by
  have hend : busReadData 0x004 s &&& 0x1 = 0x0 ↔ s.busy = false := by
    rw [busReadData_status, statusWord_and_one_eq_zero_iff]
  have hread : ∀ t, busAccess k (.read 0x004 4) t = .next (t.observe k (.data (statusWord t))) := fun t => by
    rw [busAccess_read_of_defined ⟨rfl, rfl⟩, afterRead_of_not_draws (readDraws_of_not_result rfl), busReadData_status]
  change runLine k (.poll 0x004 0x1 0x0) ls s = _
  rw [runLine_poll, hread]
  simp only [hend]
  split <;> rfl

/-- WAIT stays the host's next line while BUSY = 1. -/
theorem step_wait_of_busy {s : State} {k : Nat} {ls : List Line} {ts : List Turn} (ho : Offers s k waitLine ls ts)
    (hb : s.busy = true) : step s = .next ((s.withTurns ts).observe k (.data (statusWord s))) := by
  have hidle : ¬ (s.withTurns ts).busy = false := by simp [hb]
  rw [step_offers ho, runLine_wait, if_neg hidle]
  rfl

/-- WAIT ends when BUSY = 0. -/
theorem step_wait_of_idle {s : State} {k : Nat} {ls : List Line} {ts : List Turn} (ho : Offers s k waitLine ls ts)
    (hb : s.busy = false) : step s = .next ((s.took k ls ts).observe k (.data (statusWord s))) := by
  have hidle : (s.withTurns ts).busy = false := hb
  rw [step_offers ho, runLine_wait, if_pos hidle]
  rfl

/-- The ENGINE's step and then a turn of the host that waits for it: the command is performed and the line ends. -/
theorem run_engine_then_wait {s : State} {k : Nat} {ls : List Line} {ts : List Turn} (hb : s.busy = true)
    (hp : s.pend ≠ 0#4) (hhost : s.hosts[k]? = some (waitLine :: ls)) (hturns : s.turns = .engine :: .host k :: ts) :
    ∃ u : State, exec (decodeCode s.pend) (s.withTurns (.host k :: ts)) = .next u ∧
      Host.Core.run core 2 s = .next ((u.took k ls ts).observe k (.data (statusWord u))) ∧ u.hosts = s.hosts := by
  obtain ⟨u, hexec⟩ := exec_next (decodeCode s.pend) (s.withTurns (.host k :: ts))
  obtain ⟨-, huhosts, huturns, -⟩ := exec_frame hexec
  obtain ⟨hbusy, -⟩ := exec_completes (mt (decodeCode_eq_nop_iff _).1 hp) hexec
  have hengine : step s = .next u := by
    rw [step_of_engineIsNext ⟨hb, .inr ⟨_, hturns⟩⟩ hp, hturns]
    exact hexec
  have ho : Offers u k waitLine ls ts := ⟨huturns, by rw [huhosts]; exact hhost⟩
  refine ⟨u, hexec, ?_, huhosts⟩
  exact (run_succ_of_next (M := core) 1 hengine).trans (run_one_of_next (M := core) (step_wait_of_idle ho hbusy))

/-- Settles O51: the two outcomes of a turn of WAIT, and the run through a busy turn, the ENGINE's step and an idle
turn. -/
theorem waitEndsAfterTheEngineStep : Obligations.WaitEndsAfterTheEngineStep := by
  refine ⟨fun s k ls ts ho hb => ?busy, fun s k ls ts ho hb => ?idle, fun s k ls ts hb hp hhost hturns => ?run⟩
  case busy => exact ⟨_, step_wait_of_busy ho hb, rfl, SameBlock.refl s⟩
  case idle => exact ⟨_, step_wait_of_idle ho hb, rfl, SameBlock.refl s⟩
  case run =>
    have hstep := step_wait_of_busy ⟨hturns, hhost⟩ hb
    obtain ⟨u, hexec, hrun, hhosts⟩ := run_engine_then_wait (ts := ts)
      (s := (s.withTurns (.engine :: .host k :: ts)).observe k (.data (statusWord s))) hb hp hhost rfl
    obtain ⟨hbusy, hdone, -⟩ := exec_completes (mt (decodeCode_eq_nop_iff _).1 hp) hexec
    refine ⟨_, (run_succ_of_next (M := core) 2 hstep).trans hrun, ?_, rfl, hbusy, hdone⟩
    rw [State.observe_hosts, State.took_hosts, hhosts]
    rfl

end Sys2Proof.Machine
end

section
/-!
PROOFS. The host procedure for ENCODE (R162, steps 4 to 7), stage by stage: `Loading` while the payload is written,
`Waiting` from the acceptance of ENCODE to its ENGINE step. Each host turn of the schedule is one step from a stage to
the next.
-/

namespace Sys2Proof.Machine

-- The PAYLOAD words of a payload

/-- Bit b of word w is payload bit 32w + b (R162 step 4). -/
theorem getLsbD_payloadWord (p : List Bool) (w : Nat) {b : Nat} (hb : b < 32) :
    (payloadWord p w).getLsbD b = p.getD (32 * w + b) false := by
  rw [payloadWord, BitVec.getLsbD_setWidth, BitVec.getLsbD_ofBoolListLE, decide_eq_true hb, Bool.true_and]
  simp [hb]

/-- The words of a payload cover its bits, and are words of the window (R7). -/
theorem length_le_payloadWords (m : Nat) : m ≤ 32 * payloadWords m := by
  rw [payloadWords]
  omega

theorem payloadWords_le {m : Nat} (h : m ≤ 2036) : payloadWords m ≤ 64 := by
  rw [payloadWords]
  omega

/-- The line of the procedure that writes word w. -/
def payloadLine (p : List Bool) (w : Nat) : Line :=
  .access (.write (BitVec.ofNat 10 (0x100 + 4 * w)) 4 (payloadWord p w))

/-- The lines of the procedure from the n-th PAYLOAD word on. -/
theorem encodeProgram_drop {p : List Bool} {n : Nat} (h : n < payloadWords p.length) :
    (encodeProgram p).drop n = payloadLine p n :: (encodeProgram p).drop (n + 1) := by
  have hlt : n < (encodeProgram p).length := by simp [encodeProgram]; omega
  rw [List.drop_eq_getElem_cons hlt]
  congr 1
  simp [encodeProgram, List.getElem_append_left, h, payloadLine]

/-- The lines of the procedure after the PAYLOAD words. -/
theorem encodeProgram_drop_payloadWords (p : List Bool) :
    (encodeProgram p).drop (payloadWords p.length) =
      [wrLine .len (BitVec.ofNat 32 p.length), cmdLine .encode, waitLine] := by
  rw [encodeProgram, List.drop_left' (by simp)]

-- Host 0's turns

/-- The schedule with `r` turns of host 0 before the ENGINE's step, and one after it. -/
def procedureTurns (r : Nat) : List Turn := List.replicate r (.host 0) ++ [.engine, .host 0]

/-- Host 0 has the lines `ls` to perform, and `r` turns before the ENGINE's step. -/
structure AtLine (s : State) (ls : List Line) (r : Nat) : Prop where
  program : s.hosts[0]? = some ls
  schedule : s.turns = procedureTurns r

theorem AtLine.offers {s : State} {l : Line} {ls : List Line} {r : Nat} (h : AtLine s (l :: ls) (r + 1)) :
    Offers s 0 l ls (procedureTurns r) :=
  ⟨h.schedule, h.program⟩

/-- The host's next lines once it has taken one. -/
theorem took_hosts_zero {s : State} {ls' : List Line} (h : s.hosts[0]? = some ls') (ls : List Line) (ts : List Turn) :
    (s.took 0 ls ts).hosts[0]? = some ls := by
  obtain ⟨hlt, -⟩ := List.getElem?_eq_some_iff.1 h
  rw [State.took_hosts, List.getElem?_set_self hlt]

/-- A turn in which a write is performed. -/
theorem AtLine.write {s u : State} {off : Offset} {v : Word} {ls : List Line} {r : Nat}
    (h : AtLine s (.access (.write off 4 v) :: ls) (r + 1)) (h4 : off.toNat % 4 = 0)
    (hu : busWrite off v (s.took 0 ls (procedureTurns r)) = .next u) :
    step s = .next (u.observe 0 .ack) ∧ AtLine (u.observe 0 .ack) ls r := by
  obtain ⟨hhosts, hturns, -⟩ := busWrite_sameWorld hu
  refine ⟨(step_offers_access h.offers).trans (busAccess_write_of_defined ⟨rfl, h4⟩ hu 0), ?_, hturns⟩
  rw [State.observe_hosts, hhosts]
  exact took_hosts_zero h.program ls _

-- Loading the payload and its length

/-- The first n PAYLOAD words hold the payload, and the host is at the line that writes the next; the block is idle. -/
structure Loading (p : List Bool) (m : Fin (Config.mMaxBound + 1)) (n r : Nat) (s : State) : Prop where
  line : AtLine s ((encodeProgram p).drop n) r
  idle : s.busy = false
  noOverrun : s.ovr = false
  capacity : s.mMax = m
  bits : ∀ i < 32 * n, i < m.val → s.pay.getLsbD i = p.getD i false

/-- One turn writes one word. -/
theorem Loading.step {p : List Bool} {m : Fin (Config.mMaxBound + 1)} {n r : Nat} {s : State}
    (h : Loading p m n (r + 1) s) (hp : p.length ≤ m.val) (hn : n < payloadWords p.length) :
    ∃ t, step s = .next t ∧ Loading p m (n + 1) r t := by
  obtain ⟨hline, hidle, hovr, rfl, hbits⟩ := h
  have hw : n < 64 := hn.trans_le (payloadWords_le (hp.trans (Nat.le_of_lt_succ s.mMax.isLt)))
  have hwrite := busWrite_payload hw (payloadWord p n)
    (s.took 0 ((encodeProgram p).drop (n + 1)) (procedureTurns r))
  rw [State.took_busy, hidle] at hwrite
  rw [encodeProgram_drop hn] at hline
  obtain ⟨hstep, hnext⟩ := hline.write (by rw [BitVec.toNat_ofNat]; omega) hwrite
  refine ⟨_, hstep, hnext, hidle, hovr, rfl, fun i hi hm => ?_⟩
  by_cases hold : i < 32 * n
  · exact (getLsbD_writePayload_of_outside (.inl hold)).trans (hbits i hold hm)
  · obtain ⟨b, rfl⟩ := Nat.exists_eq_add_of_le (Nat.not_lt.1 hold)
    have hb : b < 32 := by omega
    exact (getLsbD_writePayload_of_lt hb hm).trans (getLsbD_payloadWord p n hb)

/-- The turns that write the whole payload. -/
theorem run_loading {p : List Bool} {m : Fin (Config.mMaxBound + 1)} {s : State} (hp : p.length ≤ m.val) {n r : Nat}
    (hn : n ≤ payloadWords p.length) (h : Loading p m 0 (n + r) s) :
    ∃ t : State, Host.Core.run core n s = .next t ∧ Loading p m n r t := by
  induction n generalizing r with
  | zero => exact ⟨s, rfl, by rwa [Nat.zero_add] at h⟩
  | succ n ih =>
    obtain ⟨t, hrun, ht⟩ := ih (r := r + 1) (by omega) (by rwa [Nat.add_right_comm] at h)
    obtain ⟨u, hstep, hu⟩ := ht.step hp hn
    exact ⟨u, (run_add_of_next (M := core) hrun 1).trans (run_one_of_next (M := core) hstep), hu⟩

/-- The PAYLOAD bits below LEN, when they hold a payload of that length. -/
theorem payloadBits_eq {s : State} {p : List Bool} (hlen : s.len.toNat = p.length)
    (hbits : ∀ i < p.length, s.pay.getLsbD i = p.getD i false) : payloadBits s = p := by
  refine List.ext_getElem (by rw [length_payloadBits, hlen]) fun i hi hp => ?_
  rw [← List.getD_eq_getElem _ false hi, ← List.getD_eq_getElem _ false hp, getD_payloadBits (by omega), hbits i hp]

-- The pending ENCODE

/-- ENCODE is pending, its operand is the payload, and the host waits for it. -/
structure Waiting (p : List Bool) (m : Fin (Config.mMaxBound + 1)) (r : Nat) (s : State) : Prop where
  line : AtLine s [waitLine] r
  busy : s.busy = true
  command : s.pend = 0x2#4
  noOverrun : s.ovr = false
  capacity : s.mMax = m
  fits : s.len.toNat ≤ m.val
  operand : payloadBits s = p

/-- The two turns after the payload is written store its length and issue ENCODE. -/
theorem Loading.run_issue {p : List Bool} {m : Fin (Config.mMaxBound + 1)} {r : Nat} {s : State}
    (h : Loading p m (payloadWords p.length) (r + 2) s) (hp : p.length ≤ m.val) :
    ∃ t : State, Host.Core.run core 2 s = .next t ∧ Waiting p m r t := by
  obtain ⟨hline, hidle, hovr, rfl, hbits⟩ := h
  rw [encodeProgram_drop_payloadWords] at hline
  have hmax : s.mMax.val ≤ 2036 := Nat.le_of_lt_succ s.mMax.isLt
  have hcover := length_le_payloadWords p.length
  have hlen : ((BitVec.ofNat 32 p.length).setWidth 12).toNat = p.length := by
    rw [BitVec.toNat_setWidth, BitVec.toNat_ofNat]
    omega
  have hwriteLen := busWrite_len (BitVec.ofNat 32 p.length)
    (s.took 0 [cmdLine .encode, waitLine] (procedureTurns (r + 1)))
  rw [State.took_busy, hidle] at hwriteLen
  obtain ⟨hstepLen, hlineCmd⟩ := hline.write rfl hwriteLen
  obtain ⟨hstepCmd, hlineWait⟩ := hlineCmd.write rfl (ctrlWrite_of_idle (by decide) hidle)
  have hrun := (run_succ_of_next (M := core) 1 hstepLen).trans (run_one_of_next (M := core) hstepCmd)
  have hpayload : ∀ i < p.length, s.pay.getLsbD i = p.getD i false := fun i hi => hbits i (by omega) (by omega)
  exact ⟨_, hrun, hlineWait, rfl, rfl, hovr, rfl, hlen.trans_le hp, payloadBits_eq hlen hpayload⟩

/-- The turns before the ENGINE's step poll STATUS and change nothing of the block. -/
theorem run_waiting {p : List Bool} {m : Fin (Config.mMaxBound + 1)} {n : Nat} {s : State} (h : Waiting p m n s) :
    ∃ t : State, Host.Core.run core n s = .next t ∧ Waiting p m 0 t := by
  induction n generalizing s with
  | zero => exact ⟨s, rfl, h⟩
  | succ n ih =>
    obtain ⟨hline, hb, hpend, hovr, hm, hfits, hoperand⟩ := h
    have hstep := step_wait_of_busy hline.offers hb
    obtain ⟨t, hrun, ht⟩ := ih (s := (s.withTurns (procedureTurns n)).observe 0 (.data (statusWord s)))
      ⟨⟨hline.program, rfl⟩, hb, hpend, hovr, hm, hfits, hoperand⟩
    exact ⟨t, (run_succ_of_next (M := core) n hstep).trans hrun, ht⟩

/-- The ENGINE's step and the last turn: ENCODE is performed, and the program has ended. -/
theorem Waiting.run_end {p : List Bool} {m : Fin (Config.mMaxBound + 1)} {s : State} (h : Waiting p m 0 s) :
    ∃ t : State, Host.Core.run core 2 s = .next t ∧ t.hosts[0]? = some [] ∧ t.turns = [] ∧
      SameBlock (((s.writeCodeword (hammingEncode p)).writeResult p.length).complete errOk) t := by
  obtain ⟨⟨hhost, hturns⟩, hb, hpend, -, rfl, hfits, rfl⟩ := h
  obtain ⟨u, hexec, hrun, hhosts⟩ := run_engine_then_wait (k := 0) (ls := []) (ts := []) hb (by rw [hpend]; decide)
    hhost hturns
  have hencode : exec .encode (s.withTurns [.host 0]) = .next u := by rwa [hpend] at hexec
  have hbits : payloadBits (s.withTurns [.host 0]) = payloadBits s := payloadBits_congr rfl rfl
  rw [exec_encode_of_le (s := s.withTurns [.host 0]) hfits, hbits] at hencode
  refine ⟨_, hrun, took_hosts_zero (hhosts ▸ hhost) [] [], rfl, ?_⟩
  rw [length_payloadBits]
  generalize hammingEncode (payloadBits s) = c at hencode ⊢
  cases hencode
  exact SameBlock.refl _

-- The whole procedure

/-- The runs of the stages, one after another; `u` is the block just before the ENGINE's step. -/
theorem Loading.run_procedure {p : List Bool} {m : Fin (Config.mMaxBound + 1)} {polls : Nat} {s : State}
    (h : Loading p m 0 (payloadWords p.length + (polls + 2)) s) (hp : p.length ≤ m.val) :
    ∃ u t : State, Host.Core.run core (payloadWords p.length + (2 + (polls + 2))) s = .next t ∧
      t.hosts[0]? = some [] ∧ t.turns = [] ∧ u.ovr = false ∧ u.mMax = m ∧
      SameBlock (((u.writeCodeword (hammingEncode p)).writeResult p.length).complete errOk) t := by
  obtain ⟨s₁, hrun₁, h₁⟩ := run_loading hp le_rfl h
  obtain ⟨s₂, hrun₂, h₂⟩ := h₁.run_issue hp
  obtain ⟨u, hrun₃, h₃⟩ := run_waiting h₂
  obtain ⟨t, hrun₄, hhost, hturns, hsame⟩ := h₃.run_end
  have hrun : Host.Core.run core (payloadWords p.length + (2 + (polls + 2))) s = .next t :=
    calc _ = Host.Core.run core (2 + (polls + 2)) s₁ := run_add_of_next (M := core) hrun₁ _
      _ = Host.Core.run core (polls + 2) s₂ := run_add_of_next (M := core) hrun₂ _
      _ = Host.Core.run core 2 u := run_add_of_next (M := core) hrun₃ 2
      _ = .next t := hrun₄
  exact ⟨u, t, hrun, hhost, hturns, h₃.noOverrun, h₃.capacity, hsame⟩

/-- Settles O52: the stages of the procedure end in the block that ENCODE leaves, which is idle, so its registers show
the results. -/
theorem encodeProcedureYieldsTheCodeword : Obligations.EncodeProcedureYieldsTheCodeword := by
  intro p polls s hp hb hovr hhost hturns
  have hstart : Loading p s.mMax 0 (payloadWords p.length + (polls + 2)) s :=
    ⟨⟨hhost, by rw [hturns, procedureTurns, Nat.add_assoc, Nat.add_comm 2 polls]⟩, hb, hovr, rfl,
      fun _ hi => absurd hi (Nat.not_lt_zero _)⟩
  obtain ⟨u, t, hrun, hhosts, hended, huovr, hum, ⟨-, -, hcw, hN, hR⟩, ⟨hbusy, hdone, htovr, herr, -⟩, hm⟩ :=
    hstart.run_procedure hp
  have hpu : p.length ≤ u.mMax.val := by rwa [hum]
  obtain ⟨hplan, hlength⟩ := toNat_writeResult (s := u.writeCodeword (hammingEncode p)) hpu
  refine ⟨t, by rw [Nat.add_assoc, Nat.add_assoc]; exact hrun, hhosts, hended, busReadData_status_eq_iff.2 ?status,
    ?result, fun i hi hn => ?codeword⟩
  case status => simp [hbusy, hdone, htovr, herr, huovr, errOk]
  case result =>
    rw [busReadData_result hbusy, toNat_resultWord, hR, hN, State.complete_resR, State.complete_resN, hplan, hlength,
      codewordLength]
    omega
  case codeword =>
    have hfits : codewordLength p.length ≤ t.nMax := by
      rw [State.nMax_congr hm]
      exact codewordLength_mono hpu
    have hmax := t.nMax_le
    have hslot : 32 * ((i - 1) / 32) + (i - 1) % 32 = i - 1 := Nat.div_add_mod _ _
    rw [getLsbD_busReadData_codeword (by omega) (by omega) hbusy, hslot, decide_eq_true (by omega), Bool.true_and, hcw]
    exact getLsbD_codewordBuffer_hammingEncode hpu (i - 1)

end Sys2Proof.Machine
end
